-- ==== Sys2Proof/Word.lean ====
section
/-! DEFINITION. The word types: bytes of the stream and IEEE 754 binary64 samples (00_scope.md R8). -/

namespace Sys2Proof

/-- `Byte`, an unsigned 8-bit value (R8). -/
abbrev Byte := BitVec 8

/-- Magnitude bits (bits 62:0) of a binary64 infinity: exponent field all ones, fraction zero. Magnitudes below it are the
finite numbers, magnitudes above it the NaNs. -/
abbrev infMag : Nat := 9218868437227405312

/-- A binary64 NaN: its sign bit and its 52-bit fraction field less one (a NaN's fraction is never 0). -/
structure NaN where
  neg : Bool
  fracPred : Fin 4503599627370495
  deriving DecidableEq, Repr, Inhabited

/-- `F64`, IEEE 754 binary64 (R8). One value for each of the 2^64 bit patterns: a finite number by its sign and magnitude
bits (so both zeros and the subnormals are here), an infinity by its sign, a NaN by its sign and fraction. A sample is
indivisible (R72): only `F64.ofBits` and `F64.toBits` (Machine/Float.lean) look at the pattern as a whole. -/
inductive F64 where
  | finite (neg : Bool) (mag : Fin infMag)
  | inf (neg : Bool)
  | nan (v : NaN)
  deriving DecidableEq, Repr, Inhabited

/-- The zero of a sign. -/
def F64.signedZero (neg : Bool) : F64 := .finite neg 0

/-- +0.0 -/
def F64.zero : F64 := .finite false 0

/-- 1.0: exponent field 1023, fraction 0. -/
def F64.one : F64 := .finite false 4607182418800017408

/-- 2.0: exponent field 1024, fraction 0. -/
def F64.two : F64 := .finite false 4611686018427387904

end Sys2Proof
end

