-- ==== Sys2Proof/Config.lean ====
section
/-! DEFINITION. What an implementation fixes: the spec's own bounds and constants (00_scope.md R5), and the free values, which
nothing constrains (opaque constants, log entries 5 to 10 and 20). -/

namespace Sys2Proof

/-- `NCH_MAX`: channel counts are 1..256 (R5). -/
def Config.nchMax : Nat := 256
/-- `MARKER_MAX` (R5). -/
def Config.markerMax : Nat := 8
/-- `TERM_MAX` (R5). -/
def Config.termMax : Nat := 2
/-- `KLEN`, the kernel length (R5). -/
def Config.kernelLength : Nat := 65
/-- `TAILLEN = KLEN - 1` (R5). -/
def Config.tailLength : Nat := 64
/-- The largest magnitude of `FACTOR` (44_resampler.md R281). -/
def Config.factorMax : Nat := 9

/-- The four arithmetic operations of R8, as the index of the free NaN below. -/
inductive FpOp where
  | add | sub | mul | div
  deriving DecidableEq, Repr

/-- FREE VALUE (93 U9): which NaN an arithmetic operation gives. A function of the operation and its operands (log 6). -/
opaque Config.nanOf : FpOp → F64 → F64 → NaN

/-- FREE VALUE (93 U8, R107): which NaN an f32 NaN of this 32-bit word widens to (log 7). -/
opaque Config.widenNaN : BitVec 32 → NaN

/-- FREE VALUE (93 U10, R236): the median of a window with a NaN in it. First argument: the filter's count of samples since
its reset, so that successive draws are unrelated; second: the window (log 8). -/
opaque Config.medianDraw : Nat → List F64 → F64

/-- FREE VALUE (93 U11, R236): whether a zero median of a window with zeros of both signs is -0.0; arguments as for
`Config.medianDraw` (log 9). -/
opaque Config.medianZeroNeg : Nat → List F64 → Bool

/-- CONFIGURATION FUNCTION (R250): the `F64` value of `cos ω` for `F0`, `FS`, `BW` (log 5). -/
opaque Config.notchCos : F64 → F64 → F64 → F64

/-- CONFIGURATION FUNCTION (R250): the pole radius `r` for `F0`, `FS`, `BW` (log 5). -/
opaque Config.notchRadius : F64 → F64 → F64 → F64

/-- FREE VALUE (93 U12): what an element that holds no value reads as; the argument is its index (log 10). -/
opaque Config.unheld : Nat → F64

/-- FREE VALUE (R9): `toF64` of an integer whose magnitude is above 2^53 (log 20). -/
opaque Config.wideInt : Int → F64

/-- FREE VALUE: what an element of the reserved type (code 7) decodes to. Such a configuration is refused (R104), so no
instance decodes one (log 10). -/
opaque Config.reservedElem : List Byte → F64

end Sys2Proof
end

