-- ==== Sys2Proof/Machine/Float.lean ====
section
/-! DEFINITION. IEEE 754 binary64 arithmetic, round to nearest even, each operation rounded separately (00_scope.md R8, D18).
Every finite `F64` is a whole number of units of 2^-1074, so each operation computes its exact result as a quotient of naturals
in those units and `roundUnits` narrows it once. -/

namespace Sys2Proof

/-- The sign bit. -/
def F64.sign : F64 → Bool
  | .finite neg _ => neg
  | .inf neg => neg
  | .nan v => v.neg

/-- `isFinite(v)`: neither a NaN nor an infinity (R9). -/
def F64.isFinite : F64 → Bool
  | .finite _ _ => true
  | _ => false

def F64.isNaN : F64 → Bool
  | .nan _ => true
  | _ => false

/-- Numerically zero: +0.0 or -0.0. -/
def F64.isZero : F64 → Bool
  | .finite _ m => m.val == 0
  | _ => false

/-- The 64-bit pattern: sign in bit 63, exponent in 62:52, fraction in 51:0. -/
def F64.toBits : F64 → BitVec 64
  | .finite neg m => BitVec.ofNat 64 (neg.toNat * 2 ^ 63 + m.val)
  | .inf neg => BitVec.ofNat 64 (neg.toNat * 2 ^ 63 + infMag)
  | .nan v => BitVec.ofNat 64 (v.neg.toNat * 2 ^ 63 + infMag + 1 + v.fracPred.val)

/-- The sample with a given 64-bit pattern. -/
def F64.ofBits (b : BitVec 64) : F64 :=
  let neg := decide (2 ^ 63 ≤ b.toNat)
  let mag := b.toNat % 2 ^ 63
  if h : mag < infMag then .finite neg ⟨mag, h⟩
  else if mag = infMag then .inf neg
  else .nan ⟨neg, Fin.ofNat _ (mag - infMag - 1)⟩

/-- A magnitude's value in units of 2^-1074: subnormals (exponent field 0) count their fraction, normal numbers carry the hidden
bit and are scaled by their exponent. -/
def F64.magUnits (mag : Nat) : Nat :=
  if mag / 2 ^ 52 = 0 then mag else (2 ^ 52 + mag % 2 ^ 52) * 2 ^ (mag / 2 ^ 52 - 1)

/-- A finite number's signed value in units of 2^-1074. -/
def F64.signedUnits (neg : Bool) (mag : Nat) : Int :=
  if neg then -(F64.magUnits mag : Int) else F64.magUnits mag

/-- Magnitude bits, perhaps those of a value past the largest finite one, as a number of a sign: past it, the infinity. -/
def F64.ofMag (neg : Bool) (mag : Nat) : F64 :=
  if h : mag < infMag then .finite neg ⟨mag, h⟩ else .inf neg

/-- Magnitude bits of the binary64 number nearest to `num / den` units of 2^-1074, ties to even. The quantum is 2^`sh` units;
a significand that rounds up to 2^53 carries into the exponent field by itself. -/
def F64.roundUnits (num den : Nat) : Nat :=
  let sh := (num / den).log2 - 52
  let d := den * 2 ^ sh
  let t := num / d
  let r := num % d
  let t' := if d < 2 * r ∨ (2 * r = d ∧ t % 2 = 1) then t + 1 else t
  sh * 2 ^ 52 + t'

/-- The number nearest to a signed whole number of units; an exact zero is +0.0 unless `zeroNeg`. -/
def F64.ofUnits (zeroNeg : Bool) (u : Int) : F64 :=
  if u = 0 then .signedZero zeroNeg else .ofMag (decide (u < 0)) (F64.roundUnits u.natAbs 1)

/-- Sign change: the sign bit inverted. -/
def F64.neg : F64 → F64
  | .finite n m => .finite (!n) m
  | .inf n => .inf (!n)
  | .nan v => .nan { v with neg := !v.neg }

/-- `|x|`: the sign bit cleared (43_digitalfilter.md R239). -/
def F64.abs : F64 → F64
  | .finite _ m => .finite false m
  | .inf _ => .inf false
  | .nan v => .nan { v with neg := false }

/-- The sum of two samples, with the NaN of the case that has one given by `op` and the operands as they stood. An exact zero
sum of unlike signs is +0.0 (round to nearest even). -/
def F64.addAs (nan : NaN) : F64 → F64 → F64
  | .nan _, _ => .nan nan
  | _, .nan _ => .nan nan
  | .inf a, .inf b => if a = b then .inf a else .nan nan
  | .inf a, .finite _ _ => .inf a
  | .finite _ _, .inf b => .inf b
  | .finite a x, .finite b y => .ofUnits (a && b) (F64.signedUnits a x.val + F64.signedUnits b y.val)

/-- `x + y` (R8). -/
def F64.add (x y : F64) : F64 := F64.addAs (Config.nanOf .add x y) x y

/-- `x - y` (R8): the sum with `y`'s sign inverted. -/
def F64.sub (x y : F64) : F64 := F64.addAs (Config.nanOf .sub x y) x y.neg

/-- `x * y` (R8). -/
def F64.mul : F64 → F64 → F64
  | x@(.nan _), y => .nan (Config.nanOf .mul x y)
  | x, y@(.nan _) => .nan (Config.nanOf .mul x y)
  | .inf a, .inf b => .inf (a != b)
  | x@(.inf a), y@(.finite b m) => if m.val = 0 then .nan (Config.nanOf .mul x y) else .inf (a != b)
  | x@(.finite a m), y@(.inf b) => if m.val = 0 then .nan (Config.nanOf .mul x y) else .inf (a != b)
  | .finite a m, .finite b n =>
      .ofMag (a != b) (F64.roundUnits (F64.magUnits m.val * F64.magUnits n.val) (2 ^ 1074))

/-- `x / y` (R8). -/
def F64.div : F64 → F64 → F64
  | x@(.nan _), y => .nan (Config.nanOf .div x y)
  | x, y@(.nan _) => .nan (Config.nanOf .div x y)
  | x@(.inf _), y@(.inf _) => .nan (Config.nanOf .div x y)
  | .inf a, .finite b _ => .inf (a != b)
  | .finite a _, .inf b => .signedZero (a != b)
  | x@(.finite a m), y@(.finite b n) =>
      if n.val = 0 then
        if m.val = 0 then .nan (Config.nanOf .div x y) else .inf (a != b)
      else .ofMag (a != b) (F64.roundUnits (F64.magUnits m.val * 2 ^ 1074) (F64.magUnits n.val))

/-- The place of a sample that is not a NaN in the numeric order; both zeros stand at 0. -/
def F64.orderKey : F64 → Int
  | .finite neg m => if neg then -(m.val : Int) else m.val
  | .inf neg => if neg then -(infMag : Int) else infMag
  | .nan _ => 0

/-- Numeric `x < y`, false when either is a NaN. -/
def F64.lt (x y : F64) : Bool :=
  !x.isNaN && !y.isNaN && decide (x.orderKey < y.orderKey)

/-- `toF64(i)` (R9): exact up to magnitude 2^53; above it the spec states no value (log 20). -/
def F64.ofInt (i : Int) : F64 :=
  if i.natAbs ≤ 2 ^ 53 then .ofUnits false (i * 2 ^ 1074) else Config.wideInt i

/-- `toF64` of a count. -/
def F64.ofNat (n : Nat) : F64 := F64.ofInt n

/-- The number nearest to `mant * 10^exp` with a given sign, ties to even (30_encoding.md R111): overflow gives the infinity,
underflow the zero, of that sign. The two early cases only spare huge powers of ten: `mant * 10^exp` is above 10^400 in the
first and below 10^-398 in the second. -/
def F64.ofDecimal (neg : Bool) (mant : Nat) (exp : Int) : F64 :=
  if mant = 0 then .signedZero neg
  else if 400 < exp then .inf neg
  else if exp + mant.log2 < -400 then .signedZero neg
  else if 0 ≤ exp then .ofMag neg (F64.roundUnits (mant * 10 ^ exp.toNat * 2 ^ 1074) 1)
  else .ofMag neg (F64.roundUnits (mant * 2 ^ 1074) (10 ^ (-exp).toNat))

/-- An f32 word (sign 31, exponent 30:23, fraction 22:0) widened exactly; a NaN widens to some NaN (30_encoding.md R107). One unit
of binary32, 2^-149, is 2^925 units of binary64. -/
def F64.ofF32 (v : BitVec 32) : F64 :=
  let neg := decide (2 ^ 31 ≤ v.toNat)
  let e := v.toNat / 2 ^ 23 % 2 ^ 8
  let f := v.toNat % 2 ^ 23
  if e = 255 then
    if f = 0 then .inf neg else .nan (Config.widenNaN v)
  else if e = 0 then .ofMag neg (F64.roundUnits (f * 2 ^ 925) 1)
  else .ofMag neg (F64.roundUnits ((2 ^ 23 + f) * 2 ^ (e - 1) * 2 ^ 925) 1)

/-- `san(v)` (42_channel_stage.md R213): every NaN and infinity becomes +0.0, nothing else changes. -/
def F64.san (v : F64) : F64 := if v.isFinite then v else .zero

end Sys2Proof
end

