-- ==== Sys2Proof/Syntax.lean ====
section
/-! DEFINITION. The operations of the block, one constructor per row of spec/opcode_table.json, with their typed operands
(30_encoding.md R117, R119), and the form in which the host presents one: a command word and the operands beside it (R116). -/

namespace Sys2Proof

/-- `MODE` (30_encoding.md R120: 0 BINARY, 1 ASCII). -/
inductive Mode where
  | binary | ascii
  deriving DecidableEq, Repr, Inhabited

/-- `ENDIAN` (R120: 0 LITTLE, 1 BIG). -/
inductive Endian where
  | little | big
  deriving DecidableEq, Repr, Inhabited

/-- One filter parameter: an `F64` or an integer, as R121 gives per kind (R119). -/
inductive FParam where
  | real (v : F64)
  | int (n : Int)
  deriving DecidableEq, Repr

/-- The construction parameters, the registers CR0 to CR10 (10_state.md R22). `etype` is the 3-bit code of R120, 7 reserved. -/
structure Params where
  mode : Mode
  nch : Nat
  marker : List Byte
  etype : BitVec 3
  endian : Endian
  delim : Byte
  term : List Byte
  residueCap : Nat
  caps : List Nat
  chunkMax : Nat
  wMax : Nat
  deriving DecidableEq, Repr

/-- The construction parameters of `State.reset` (log 2): the configuration of 95_test_vectors.md program 1 (two u16 channels,
little-endian, the document's default marker `AA AA`, RESIDUE_CAP 64, CAP 4 and 4), with `,` and newline for the ASCII
registers, W_MAX 16 (program 2's) and CHUNK_MAX 64. -/
def Params.default : Params where
  mode := .binary
  nch := 2
  marker := [0xAA, 0xAA]
  etype := 2
  endian := .little
  delim := 0x2C
  term := [0x0A]
  residueCap := 64
  caps := [4, 4]
  chunkMax := 64
  wMax := 16

/-- The operations. `chan` is the 8-bit channel index of the command word (R116). -/
inductive Instr where
  /-- SYS_RESET params (70_reset_and_hazards.md R350) -/
  | sysReset (p : Params)
  /-- RB_ADD c, value (40_ringbuffer.md R141) -/
  | rbAdd (chan : BitVec 8) (value : F64)
  /-- RB_ADD_RANGE c, values (R142) -/
  | rbAddRange (chan : BitVec 8) (values : List F64)
  /-- RB_COPY_LATEST c, n; `dest` is the destination array the caller supplies (R143) -/
  | rbCopyLatest (chan : BitVec 8) (n : BitVec 32) (dest : List F64)
  /-- RB_NEW_DATA_SINCE c, cursor (R144) -/
  | rbNewDataSince (chan : BitVec 8) (cursor : BitVec 64)
  /-- RB_CLEAR c (R145) -/
  | rbClear (chan : BitVec 8)
  /-- RB_CAPACITY c (R146) -/
  | rbCapacity (chan : BitVec 8)
  /-- RB_COUNT c (R147) -/
  | rbCount (chan : BitVec 8)
  /-- FP_PARSE chunk; `fault` is the environment input of 60_exceptions.md R322 (41_frameparser.md R170) -/
  | fpParse (chunk : List Byte) (fault : Bool)
  /-- FP_PARSE.BIN, the variant of MODE = BINARY (R171) -/
  | fpParseBin (chunk : List Byte) (fault : Bool)
  /-- FP_PARSE.ASCII, the variant of MODE = ASCII (R180) -/
  | fpParseAscii (chunk : List Byte) (fault : Bool)
  /-- CH_PROCESS_BLOCK samples, one array per channel (42_channel_stage.md R214) -/
  | chProcessBlock (samples : List (List F64))
  /-- CH_SET_CAL c, gain, offset (R211) -/
  | chSetCal (chan : BitVec 8) (gain offset : F64)
  /-- DF_APPLY c, x (43_digitalfilter.md R231) -/
  | dfApply (chan : BitVec 8) (x : F64)
  /-- DF_APPLY.NONE (R232) -/
  | dfApplyNone (chan : BitVec 8) (x : F64)
  /-- DF_APPLY.LP (R233) -/
  | dfApplyLp (chan : BitVec 8) (x : F64)
  /-- DF_APPLY.HP (R234) -/
  | dfApplyHp (chan : BitVec 8) (x : F64)
  /-- DF_APPLY.MAVG (R235) -/
  | dfApplyMavg (chan : BitVec 8) (x : F64)
  /-- DF_APPLY.MEDIAN (R236) -/
  | dfApplyMedian (chan : BitVec 8) (x : F64)
  /-- DF_APPLY.NOTCH (R237) -/
  | dfApplyNotch (chan : BitVec 8) (x : F64)
  /-- DF_APPLY.BIQUAD (R238) -/
  | dfApplyBiquad (chan : BitVec 8) (x : F64)
  /-- DF_APPLY.ABS (R239) -/
  | dfApplyAbs (chan : BitVec 8) (x : F64)
  /-- DF_APPLY.SQUARE (R240) -/
  | dfApplySquare (chan : BitVec 8) (x : F64)
  /-- DF_APPLY.INTERP (R241) -/
  | dfApplyInterp (chan : BitVec 8) (x : F64)
  /-- DF_RESET c (R242) -/
  | dfReset (chan : BitVec 8)
  /-- DF_KIND c (R243) -/
  | dfKind (chan : BitVec 8)
  /-- DF_PARAMS c (R244) -/
  | dfParams (chan : BitVec 8)
  /-- DF_SELECT c, kind, params (R245) -/
  | dfSelect (chan : BitVec 8) (kind : BitVec 4) (params : List FParam)
  /-- RS_PROCESS c, x (44_resampler.md R285) -/
  | rsProcess (chan : BitVec 8) (x : List F64)
  /-- RS_PROCESS.BYPASS, the variant of FACTOR = 0 (R286) -/
  | rsProcessBypass (chan : BitVec 8) (x : List F64)
  /-- RS_PROCESS.UP, the variant of FACTOR > 0 (R287) -/
  | rsProcessUp (chan : BitVec 8) (x : List F64)
  /-- RS_PROCESS.DOWN, the variant of FACTOR < 0 (R288) -/
  | rsProcessDown (chan : BitVec 8) (x : List F64)
  /-- RS_SET_FACTOR factor (R291) -/
  | rsSetFactor (factor : Int)
  /-- RS_RESET (R292) -/
  | rsReset
  deriving DecidableEq, Repr

/-- A variant row carries the command word of its base row (30_encoding.md R118): the base operation it names. -/
def Instr.base : Instr → Instr
  | .sysReset p => .sysReset p
  | .rbAdd c v => .rbAdd c v
  | .rbAddRange c vs => .rbAddRange c vs
  | .rbCopyLatest c n d => .rbCopyLatest c n d
  | .rbNewDataSince c q => .rbNewDataSince c q
  | .rbClear c => .rbClear c
  | .rbCapacity c => .rbCapacity c
  | .rbCount c => .rbCount c
  | .fpParse b f => .fpParse b f
  | .fpParseBin b f => .fpParse b f
  | .fpParseAscii b f => .fpParse b f
  | .chProcessBlock ss => .chProcessBlock ss
  | .chSetCal c g o => .chSetCal c g o
  | .dfApply c x => .dfApply c x
  | .dfApplyNone c x => .dfApply c x
  | .dfApplyLp c x => .dfApply c x
  | .dfApplyHp c x => .dfApply c x
  | .dfApplyMavg c x => .dfApply c x
  | .dfApplyMedian c x => .dfApply c x
  | .dfApplyNotch c x => .dfApply c x
  | .dfApplyBiquad c x => .dfApply c x
  | .dfApplyAbs c x => .dfApply c x
  | .dfApplySquare c x => .dfApply c x
  | .dfApplyInterp c x => .dfApply c x
  | .dfReset c => .dfReset c
  | .dfKind c => .dfKind c
  | .dfParams c => .dfParams c
  | .dfSelect c k ps => .dfSelect c k ps
  | .rsProcess c x => .rsProcess c x
  | .rsProcessBypass c x => .rsProcess c x
  | .rsProcessUp c x => .rsProcess c x
  | .rsProcessDown c x => .rsProcess c x
  | .rsSetFactor k => .rsSetFactor k
  | .rsReset => .rsReset

/-- The typed operands that travel beside a command word (30_encoding.md R119), one form per operand list. -/
inductive Operands where
  /-- no operand besides `chan` -/
  | none
  | construction (p : Params)
  | value (v : F64)
  | values (vs : List F64)
  | copy (n : BitVec 32) (dest : List F64)
  | cursor (q : BitVec 64)
  | chunk (bytes : List Byte) (fault : Bool)
  | block (samples : List (List F64))
  | calibration (gain offset : F64)
  | selection (kind : BitVec 4) (params : List FParam)
  | factor (k : Int)
  deriving DecidableEq, Repr

/-- An operation as the host presents it: the 16-bit command word (30_encoding.md R116) and its operands. -/
structure Command where
  word : BitVec 16
  operands : Operands
  deriving DecidableEq, Repr

end Sys2Proof
end

