-- ==== Sys2Proof/Machine/Operands.lean ====
section
/-! DEFINITION. Operand forms: element types, the legality of construction parameters (00_scope.md R5, R6) and of filter
parameters (43_digitalfilter.md R246), the range of a factor, the shape of a block. -/

namespace Sys2Proof

/-- `EW`, the element width in bytes of an `ETYPE` code (30_encoding.md R104); code 7 is reserved and has none. -/
def elemWidth (etype : BitVec 3) : Nat :=
  if etype = 0 then 1
  else if etype = 1 then 1
  else if etype = 2 then 2
  else if etype = 3 then 2
  else if etype = 4 then 4
  else if etype = 5 then 4
  else if etype = 6 then 4
  else 0

/-- `FRAME_BYTES = MLEN + NCH*EW` (R5). -/
def Params.frameBytes (p : Params) : Nat := p.marker.length + p.nch * elemWidth p.etype

/-- The least `RESIDUE_CAP` of a mode (R5): a whole frame in binary mode, one byte in ASCII mode. -/
def Params.residueMin (p : Params) : Nat :=
  match p.mode with
  | .binary => p.frameBytes
  | .ascii => 1

/-- The registers of both stream formats, CR2 to CR7, are in the ranges of R5, whichever mode is selected (10_state.md R22,
60_exceptions.md R325 a, 93 U17 and U18; log 17). -/
def Params.formatLegal (p : Params) : Bool :=
  decide (1 ≤ p.marker.length) && decide (p.marker.length ≤ Config.markerMax) && decide (p.etype ≠ 7)
    && decide (1 ≤ p.term.length) && decide (p.term.length ≤ Config.termMax) && !p.term.contains p.delim
    && decide (p.residueMin ≤ p.residueCap)

/-- Construction parameters inside the ranges of R5; any others are refused (R6, 60_exceptions.md R325 a). -/
def Params.legal (p : Params) : Bool :=
  decide (1 ≤ p.nch) && decide (p.nch ≤ Config.nchMax) && decide (p.caps.length = p.nch)
    && p.caps.all (fun c => decide (1 ≤ c)) && decide (1 ≤ p.chunkMax) && decide (1 ≤ p.wMax) && p.formatLegal

/-- Legal filter parameters (43_digitalfilter.md R246) for a kind code of 30_encoding.md R121, with `wMax` the bound on a
window. Codes 10..15 are reserved. -/
def filterLegal (wMax : Nat) (kind : BitVec 4) (ps : List FParam) : Bool :=
  match kind.toNat, ps with
  | 0, [] => true
  | 1, [.real alpha] => alpha.isFinite
  | 2, [.real alpha] => alpha.isFinite
  | 3, [.int w] => decide (1 ≤ w) && decide (w ≤ wMax)
  | 4, [.int w] => decide (1 ≤ w) && decide (w ≤ wMax)
  | 5, [.real f0, .real fs, .real bw] => f0.isFinite && fs.isFinite && bw.isFinite && F64.lt .zero fs
  | 6, [.real b0, .real b1, .real b2, .real a1, .real a2] =>
      b0.isFinite && b1.isFinite && b2.isFinite && a1.isFinite && a2.isFinite
  | 7, [] => true
  | 8, [] => true
  | 9, [.int n] => decide (1 ≤ n)
  | _, _ => false

/-- A factor in `[-9, 9]` (44_resampler.md R281, R291). -/
def factorLegal (k : Int) : Bool := decide (-(Config.factorMax : Int) ≤ k) && decide (k ≤ Config.factorMax)

/-- Every array of a block has the length of the first (42_channel_stage.md R214, 60_exceptions.md R325 f). -/
def blockRectangular (samples : List (List F64)) : Bool :=
  match samples with
  | [] => true
  | a :: rest => rest.all (fun b => decide (b.length = a.length))

/-- The ratio `M = |FACTOR| + 1` (R281). -/
def ratio (factor : Int) : Nat := factor.natAbs + 1

end Sys2Proof
end

