-- ==== Sys2Proof/Decode.lean ====
section
/-! DEFINITION. The command word (30_encoding.md R116 to R118): decoding a word and its operands into an operation, rejecting by
name, and the encoder. -/

namespace Sys2Proof

/-- Why a command names no operation. -/
inductive DecodeError where
  /-- `op` is not in the table of R117 (R118). -/
  | reservedOp
  /-- a non-zero `chan` on an operation without a channel (R118). -/
  | channelNotZero
  /-- the operands are not those of the operation (R119). -/
  | wrongOperands
  deriving DecidableEq, Repr

/-- `op`, bits 15:8 of the command word (R116). -/
def opOf (w : BitVec 16) : BitVec 8 := w.extractLsb' 8 8

/-- `chan`, bits 7:0 of the command word (R116). -/
def chanOf (w : BitVec 16) : BitVec 8 := w.extractLsb' 0 8

/-- The command word of an operation and a channel (R116). -/
def commandWord (op chan : BitVec 8) : BitVec 16 := op ++ chan

/-- An operation without a channel needs `chan` = 0 (R118). -/
def channelFree (w : BitVec 16) (i : Instr) : Except DecodeError Instr :=
  if chanOf w = 0 then .ok i else .error .channelNotZero

/-- The operation a command names (R117). Total: a command that names none is rejected by name. -/
def decode (cmd : Command) : Except DecodeError Instr :=
  let c := chanOf cmd.word
  match (opOf cmd.word).toNat with
  | 0x00 => match cmd.operands with
    | .construction p => channelFree cmd.word (.sysReset p)
    | _ => .error .wrongOperands
  | 0x10 => match cmd.operands with
    | .value v => .ok (.rbAdd c v)
    | _ => .error .wrongOperands
  | 0x11 => match cmd.operands with
    | .values vs => .ok (.rbAddRange c vs)
    | _ => .error .wrongOperands
  | 0x12 => match cmd.operands with
    | .copy n dest => .ok (.rbCopyLatest c n dest)
    | _ => .error .wrongOperands
  | 0x13 => match cmd.operands with
    | .cursor q => .ok (.rbNewDataSince c q)
    | _ => .error .wrongOperands
  | 0x14 => match cmd.operands with
    | .none => .ok (.rbClear c)
    | _ => .error .wrongOperands
  | 0x15 => match cmd.operands with
    | .none => .ok (.rbCapacity c)
    | _ => .error .wrongOperands
  | 0x16 => match cmd.operands with
    | .none => .ok (.rbCount c)
    | _ => .error .wrongOperands
  | 0x20 => match cmd.operands with
    | .chunk bytes fault => channelFree cmd.word (.fpParse bytes fault)
    | _ => .error .wrongOperands
  | 0x30 => match cmd.operands with
    | .block samples => channelFree cmd.word (.chProcessBlock samples)
    | _ => .error .wrongOperands
  | 0x31 => match cmd.operands with
    | .calibration gain offset => .ok (.chSetCal c gain offset)
    | _ => .error .wrongOperands
  | 0x40 => match cmd.operands with
    | .value x => .ok (.dfApply c x)
    | _ => .error .wrongOperands
  | 0x41 => match cmd.operands with
    | .none => .ok (.dfReset c)
    | _ => .error .wrongOperands
  | 0x42 => match cmd.operands with
    | .none => .ok (.dfKind c)
    | _ => .error .wrongOperands
  | 0x43 => match cmd.operands with
    | .none => .ok (.dfParams c)
    | _ => .error .wrongOperands
  | 0x44 => match cmd.operands with
    | .selection kind params => .ok (.dfSelect c kind params)
    | _ => .error .wrongOperands
  | 0x50 => match cmd.operands with
    | .values x => .ok (.rsProcess c x)
    | _ => .error .wrongOperands
  | 0x51 => match cmd.operands with
    | .factor k => channelFree cmd.word (.rsSetFactor k)
    | _ => .error .wrongOperands
  | 0x52 => match cmd.operands with
    | .none => channelFree cmd.word .rsReset
    | _ => .error .wrongOperands
  | _ => .error .reservedOp

/-- The command of an operation: its word (R117) and its operands. A variant row has its base row's word (R118). -/
def encode : Instr → Command
  | .sysReset p => ⟨commandWord 0x00 0, .construction p⟩
  | .rbAdd c v => ⟨commandWord 0x10 c, .value v⟩
  | .rbAddRange c vs => ⟨commandWord 0x11 c, .values vs⟩
  | .rbCopyLatest c n dest => ⟨commandWord 0x12 c, .copy n dest⟩
  | .rbNewDataSince c q => ⟨commandWord 0x13 c, .cursor q⟩
  | .rbClear c => ⟨commandWord 0x14 c, .none⟩
  | .rbCapacity c => ⟨commandWord 0x15 c, .none⟩
  | .rbCount c => ⟨commandWord 0x16 c, .none⟩
  | .fpParse bytes fault => ⟨commandWord 0x20 0, .chunk bytes fault⟩
  | .fpParseBin bytes fault => ⟨commandWord 0x20 0, .chunk bytes fault⟩
  | .fpParseAscii bytes fault => ⟨commandWord 0x20 0, .chunk bytes fault⟩
  | .chProcessBlock samples => ⟨commandWord 0x30 0, .block samples⟩
  | .chSetCal c gain offset => ⟨commandWord 0x31 c, .calibration gain offset⟩
  | .dfApply c x => ⟨commandWord 0x40 c, .value x⟩
  | .dfApplyNone c x => ⟨commandWord 0x40 c, .value x⟩
  | .dfApplyLp c x => ⟨commandWord 0x40 c, .value x⟩
  | .dfApplyHp c x => ⟨commandWord 0x40 c, .value x⟩
  | .dfApplyMavg c x => ⟨commandWord 0x40 c, .value x⟩
  | .dfApplyMedian c x => ⟨commandWord 0x40 c, .value x⟩
  | .dfApplyNotch c x => ⟨commandWord 0x40 c, .value x⟩
  | .dfApplyBiquad c x => ⟨commandWord 0x40 c, .value x⟩
  | .dfApplyAbs c x => ⟨commandWord 0x40 c, .value x⟩
  | .dfApplySquare c x => ⟨commandWord 0x40 c, .value x⟩
  | .dfApplyInterp c x => ⟨commandWord 0x40 c, .value x⟩
  | .dfReset c => ⟨commandWord 0x41 c, .none⟩
  | .dfKind c => ⟨commandWord 0x42 c, .none⟩
  | .dfParams c => ⟨commandWord 0x43 c, .none⟩
  | .dfSelect c kind params => ⟨commandWord 0x44 c, .selection kind params⟩
  | .rsProcess c x => ⟨commandWord 0x50 c, .values x⟩
  | .rsProcessBypass c x => ⟨commandWord 0x50 c, .values x⟩
  | .rsProcessUp c x => ⟨commandWord 0x50 c, .values x⟩
  | .rsProcessDown c x => ⟨commandWord 0x50 c, .values x⟩
  | .rsSetFactor k => ⟨commandWord 0x51 0, .factor k⟩
  | .rsReset => ⟨commandWord 0x52 0, .none⟩

/-- The operands that go with a bare command word of the opcode table, whose row gives no operand any bit: zeros and empty
arrays, and for SYS_RESET, whose operands have no zero in their ranges, `Params.default` (log 15). -/
def plainOperands (w : BitVec 16) : Operands :=
  match (opOf w).toNat with
  | 0x00 => .construction Params.default
  | 0x10 => .value .zero
  | 0x11 => .values []
  | 0x12 => .copy 0 []
  | 0x13 => .cursor 0
  | 0x20 => .chunk [] false
  | 0x30 => .block (List.replicate Params.default.nch [])
  | 0x31 => .calibration .zero .zero
  | 0x40 => .value .zero
  | 0x44 => .selection 0 []
  | 0x50 => .values []
  | 0x51 => .factor 0
  | _ => .none

/-- A bare command word with its plain operands. -/
def plainCommand (w : BitVec 16) : Command := ⟨w, plainOperands w⟩

/-- The command word in the low `nbits` bits of `w`; none when they do not fit the one command format, 16 bits (R116). -/
def tableWord (nbits w : Nat) : Option (BitVec 16) :=
  if w % 2 ^ nbits < 2 ^ 16 then some (BitVec.ofNat 16 (w % 2 ^ nbits)) else none

/-- The operation the decoder reads from a bare command word, given as the opcode table numbers its bits. -/
def decodeTableWord (nbits w : Nat) : Option Instr :=
  match tableWord nbits w with
  | none => none
  | some word => (decode (plainCommand word)).toOption

end Sys2Proof
end

