-- ==== Sys2Proof/Machine/Flags.lean ====
section
/-! DEFINITION. Flags: the block has none, no condition codes and no sticky status (10_state.md R25). What stands here are the
codes of the two enumerations the block reports: the `status` result of FP_PARSE and the cause code of its one exception. -/

namespace Sys2Proof.Machine

/-- `status` of FP_PARSE (30_encoding.md R120): a result, not stored by the block (R25). -/
inductive Status where
  | ok | discarded
  deriving DecidableEq, Repr

/-- The 1-bit code of a status (R120). -/
def Status.code : Status → BitVec 1
  | .ok => 0
  | .discarded => 1

/-- The cause code of `Discard` (60_exceptions.md R320), the block's one exception. It is recorded nowhere. -/
def discardCause : Nat := 1

/-- `MODE` code (R120). -/
def modeCode : Mode → BitVec 1
  | .binary => 0
  | .ascii => 1

/-- `ENDIAN` code (R120). -/
def endianCode : Endian → BitVec 1
  | .little => 0
  | .big => 1

end Sys2Proof.Machine
end

