-- ==== Sys2Proof/Machine/Registers.lean ====
section
/-! DEFINITION. The per-channel state elements and their reset values: RingBuffer (10_state.md R26), DigitalFilter (R28),
Resampler (R29), calibration (R27), and the configuration tables (R31). -/

namespace Sys2Proof.Machine

/-- RingBuffer of one channel (R26). An element that holds no value is `none`. -/
structure Ring where
  /-- `BUF[c]` -/
  buf : List (Option F64)
  /-- `HEAD[c]`, the index the next sample is written to -/
  head : Nat
  /-- `COUNT[c]` -/
  count : Nat
  /-- `TOTAL[c]` -/
  total : BitVec 64
  deriving DecidableEq, Repr

/-- LP and HP (R28): `ALPHA` and the register `Y_LP`. -/
structure LowPass where
  alpha : F64
  yLp : F64
  deriving DecidableEq, Repr

/-- MAVG (R28). An element of `WIN` that holds no value is `none`. -/
structure MovingAverage where
  w : Nat
  win : List (Option F64)
  idx : Nat
  n : Nat
  sum : F64
  deriving DecidableEq, Repr

/-- MEDIAN (R28). `draws` is the model's own count of samples since the filter's reset (log 8). -/
structure MedianFilter where
  w : Nat
  win : List (Option F64)
  idx : Nat
  n : Nat
  draws : Nat
  deriving DecidableEq, Repr

/-- The delay registers of NOTCH and BIQUAD (R28). -/
structure Delay where
  x1 : F64
  x2 : F64
  y1 : F64
  y2 : F64
  deriving DecidableEq, Repr

/-- NOTCH (R28): parameters, coefficients, delay. -/
structure Notch where
  f0 : F64
  fs : F64
  bw : F64
  c1 : F64
  c2 : F64
  c3 : F64
  delay : Delay
  deriving DecidableEq, Repr

/-- BIQUAD (R28): parameters, delay. -/
structure Biquad where
  b0 : F64
  b1 : F64
  b2 : F64
  a1 : F64
  a2 : F64
  delay : Delay
  deriving DecidableEq, Repr

/-- INTERP (R28): `NDEC`, `K`, anchors, `PRIMED`. -/
structure Interp where
  ndec : Nat
  k : Nat
  a0 : F64
  a1 : F64
  primed : Bool
  deriving DecidableEq, Repr

/-- The filter instance of a channel: `KIND[c]`, `FPARAM[c]` and the kind's working registers. Registers of other kinds do not
exist while a kind is selected (R28). -/
inductive DFilter where
  | none
  | lp (r : LowPass)
  | hp (r : LowPass)
  | mavg (r : MovingAverage)
  | median (r : MedianFilter)
  | notch (r : Notch)
  | biquad (r : Biquad)
  | abs
  | square
  | interp (r : Interp)
  deriving DecidableEq, Repr

/-- `KIND[c]`, the 4-bit code of 30_encoding.md R121. -/
def DFilter.kind : DFilter → BitVec 4
  | .none => 0
  | .lp _ => 1
  | .hp _ => 2
  | .mavg _ => 3
  | .median _ => 4
  | .notch _ => 5
  | .biquad _ => 6
  | .abs => 7
  | .square => 8
  | .interp _ => 9

/-- `FPARAM[c]`, the parameter list in the order of R121. -/
def DFilter.params : DFilter → List FParam
  | .none => []
  | .lp r => [.real r.alpha]
  | .hp r => [.real r.alpha]
  | .mavg r => [.int r.w]
  | .median r => [.int r.w]
  | .notch r => [.real r.f0, .real r.fs, .real r.bw]
  | .biquad r => [.real r.b0, .real r.b1, .real r.b2, .real r.a1, .real r.a2]
  | .abs => []
  | .square => []
  | .interp r => [.int r.ndec]

/-- Resampler state of one channel (R29): `TAIL[c]`, oldest first, and `PHASE[c]`. -/
structure Resamp where
  tail : List F64
  phase : Nat
  deriving DecidableEq, Repr

/-- The state of one channel. -/
structure Channel where
  ring : Ring
  gain : F64
  offset : F64
  filter : DFilter
  rs : Resamp
  deriving DecidableEq, Repr

/-- The settings a block is processed with (42_channel_stage.md R214, R215), those of one channel: `GAIN[c]`, `OFFSET[c]`, `KIND[c]`,
`FPARAM[c]`. -/
structure ChannelSettings where
  gain : F64
  offset : F64
  kind : BitVec 4
  params : List FParam
  deriving DecidableEq, Repr

/-- The settings of a channel as they stand. -/
def Channel.settings (ch : Channel) : ChannelSettings where
  gain := ch.gain
  offset := ch.offset
  kind := ch.filter.kind
  params := ch.filter.params

/-- Configuration tables (R31): `KERNEL(M)` and `UP_GAIN(M)` for M = 2, 3, ..., in that order. -/
structure Tables where
  kernel : List (List F64)
  upGain : List F64
  deriving DecidableEq, Repr

/-- `KERNEL(M)` (44_resampler.md R282). -/
def Tables.kernelOf (t : Tables) (m : Nat) : List F64 := t.kernel.getD (m - 2) []

/-- `UP_GAIN(M)` (R287). -/
def Tables.gainOf (t : Tables) (m : Nat) : F64 := t.upGain.getD (m - 2) .zero

/-- The delay after a reset: +0.0 (R28). -/
def Delay.reset : Delay := ⟨.zero, .zero, .zero, .zero⟩

/-- A window of `w` elements that hold no value (R28). -/
def emptyWindow (w : Nat) : List (Option F64) := List.replicate w Option.none

/-- `DF_RESET` on one filter (R28, 43_digitalfilter.md R242): the working registers at their reset values, the kind, its
parameters and the notch coefficients kept. -/
def DFilter.reset : DFilter → DFilter
  | .none => .none
  | .lp r => .lp { r with yLp := .zero }
  | .hp r => .hp { r with yLp := .zero }
  | .mavg r => .mavg { r with win := emptyWindow r.w, idx := 0, n := 0, sum := .zero }
  | .median r => .median { r with win := emptyWindow r.w, idx := 0, n := 0, draws := 0 }
  | .notch r => .notch { r with delay := .reset }
  | .biquad r => .biquad { r with delay := .reset }
  | .abs => .abs
  | .square => .square
  | .interp r => .interp { r with k := 0, a0 := .zero, a1 := .zero, primed := false }

/-- An empty RingBuffer of a capacity, after `SYS_RESET` (R33). -/
def Ring.reset (cap : Nat) : Ring := ⟨List.replicate cap Option.none, 0, 0, 0⟩

/-- A zero tail and phase 0 (R33, 44_resampler.md R292). -/
def Resamp.reset : Resamp := ⟨List.replicate Config.tailLength .zero, 0⟩

/-- A channel of a capacity after `SYS_RESET` (R33). -/
def Channel.reset (cap : Nat) : Channel where
  ring := .reset cap
  gain := .one
  offset := .zero
  filter := .none
  rs := .reset

end Sys2Proof.Machine
end

