-- ==== Sys2Proof/Machine/Kernel.lean ====
section
/-! DEFINITION. The reference kernel tables of 95_test_vectors.md section 6.1 (formulas of 44_resampler.md R282), one definition
per M, as binary64 patterns, and the default upsampler gains (R287). They are the tables of `State.reset` only (log 4): the
tables are configuration, and no operation reads anything of them but through State. -/

namespace Sys2Proof.Machine

/-- Samples from their 64-bit patterns. -/
def samplesOf (bits : List Nat) : List F64 := bits.map (fun b => F64.ofBits (BitVec.ofNat 64 b))

/-- `KERNEL(2)`, the reference table. -/
def refKernel2 : List F64 := samplesOf [
  0x3F48C9D99860DCBB, 0xBF214D337DAAD84E, 0xBF4EDF98ACC22927, 0xBF2673CA11C09F7D, 0x3F545D5C78445D6E,
  0x3F478BBEE794584F, 0xBF598D011E65CDF4, 0xBF5B30BC661786A3, 0x3F5B6A088168E9D4, 0x3F690F1317F593B8,
  0xBF54D3A237EFEFE1, 0xBF73CEB481053D6F, 0x3C5D6E3285D57B27, 0x3F7B89522C8AADCF, 0x3F6425B08E89088E,
  0xBF80E6F76C2ACCBE, 0xBF79DA4AD2562268, 0x3F81F8DA4CCF3826, 0x3F87B65FB693B723, 0xBF7EA731F237592E,
  0xBF927D2C77760BCE, 0x3F6C0DB97A90A9D5, 0x3F99EB68A9B872D9, 0x3F72D79F2B7265F5, 0xBFA0C1BD9ADF9865,
  0xBF92EC7FEAF96998, 0x3FA4431AAD804584, 0x3FA5C94E33560D81, 0xBFA71978E4D75FCC, 0xBFB7B638A871BD4F,
  0x3FA8F275A5EB089B, 0x3FD4113F10ECAD0C, 0x3FDCC976BE3EE1B8, 0x3FD4113F10ECAD0C, 0x3FA8F275A5EB089B,
  0xBFB7B638A871BD4F, 0xBFA71978E4D75FCD, 0x3FA5C94E33560D82, 0x3FA4431AAD804584, 0xBF92EC7FEAF96998,
  0xBFA0C1BD9ADF9866, 0x3F72D79F2B7265F7, 0x3F99EB68A9B872D9, 0x3F6C0DB97A90A9D6, 0xBF927D2C77760BD0,
  0xBF7EA731F237592F, 0x3F87B65FB693B725, 0x3F81F8DA4CCF3826, 0xBF79DA4AD2562269, 0xBF80E6F76C2ACCC1,
  0x3F6425B08E89088E, 0x3F7B89522C8AADD2, 0x3C5D6E3285D57B26, 0xBF73CEB481053D71, 0xBF54D3A237EFEFE6,
  0x3F690F1317F593B7, 0x3F5B6A088168E9D6, 0xBF5B30BC661786AA, 0xBF598D011E65CDF4, 0x3F478BBEE7945852,
  0x3F545D5C78445D74, 0xBF2673CA11C09F7D, 0xBF4EDF98ACC2292D, 0xBF214D337DAAD84E, 0x3F48C9D99860DCBB]

/-- `KERNEL(3)`, the reference table. -/
def refKernel3 : List F64 := samplesOf [
  0xBF48D416AD40706E, 0xBF4667C1D426B619, 0x3C332FE22206ECC1, 0x3F4D134FBE158052, 0x3F5465C5CA26E438,
  0x3F400D8410942279, 0xBF5297FC42CAD109, 0xBF6341ECC421F118, 0xBF5B755B3987B5C4, 0x3F5168E78B98BAFB,
  0x3F700CE397306909, 0x3F70401F95B92F5B, 0xBC53A6E6F560CDDC, 0xBF76976CEC85A177, 0xBF7F0DAC84CCFCA9,
  0xBF677C5CC0689473, 0x3F79E4F86EAFBBFE, 0x3F897516162CA210, 0x3F8141802A135326, 0xBF74E5F4ABEB6D75,
  0xBF9284CF73533B1D, 0xBF922A1E8D413ADE, 0x3C657A50F2F58F32, 0x3F986686D2B6C853, 0x3FA0C8A96F0E550E,
  0x3F89CDA2ECD7DA43, 0xBF9D7D76EC28B75D, 0xBFAEDC3A1BDF7678, 0xBFA7230362FFB9CE, 0x3FA07950E415C249,
  0x3FC339CDB6C3652A, 0x3FD076B721E54401, 0x3FD338E713EF5BD6, 0x3FD076B721E54401, 0x3FC339CDB6C3652A,
  0x3FA07950E415C249, 0xBFA7230362FFB9CF, 0xBFAEDC3A1BDF7679, 0xBF9D7D76EC28B75D, 0x3F89CDA2ECD7DA44,
  0x3FA0C8A96F0E550F, 0x3F986686D2B6C855, 0x3C657A50F2F58F32, 0xBF922A1E8D413ADF, 0xBF9284CF73533B1F,
  0xBF74E5F4ABEB6D76, 0x3F8141802A135328, 0x3F897516162CA210, 0x3F79E4F86EAFBBFF, 0xBF677C5CC0689478,
  0xBF7F0DAC84CCFCA9, 0xBF76976CEC85A179, 0xBC53A6E6F560CDDB, 0x3F70401F95B92F5E, 0x3F700CE39730690C,
  0x3F5168E78B98BAFA, 0xBF5B755B3987B5C6, 0xBF6341ECC421F11D, 0xBF5297FC42CAD109, 0x3F400D841094227B,
  0x3F5465C5CA26E43E, 0x3F4D134FBE158052, 0x3C332FE22206ECC4, 0xBF4667C1D426B619, 0xBF48D416AD40706E]

/-- `KERNEL(4)`, the reference table. -/
def refKernel4 : List F64 := samplesOf [
  0xBF3E9EBFF35B26F8, 0x3F1157FA9667CD3C, 0x3F45D10408C0B35F, 0x3F51DFA4CF7C80F8, 0x3F514FD647ACA5BD,
  0x3F3832F41BD85A95, 0xBF4CA851A425AE4C, 0xBF61C05542F1E9FA, 0xBF6629FA94B52214, 0xBF5D5ED5D46A3D02,
  0x3F45128C28C14B20, 0x3F6E7A961B57462E, 0x3F77B3579E8D5A1B, 0x3F752F992EEA0FE5, 0x3F54628D0AF7A31A,
  0xBF73CF73EE23F8D6, 0xBF84E6CB45496BAF, 0xBF87775AF8C560FE, 0xBF7A987703F0A8E3, 0x3F6F80DFB80C80F6,
  0x3F8F6F4451789766, 0x3F9655282836FB7C, 0x3F9250DC5A931D5C, 0x3F62E35BF6CCEA39, 0xBF94B2EDA0E33550,
  0xBFA440A301AD2805, 0xBFA64D097A453E78, 0xBF9790DDE2BFE7A8, 0x3F9845B567DC53F0, 0x3FB6AD065560DF90,
  0x3FC3EBCA8446546C, 0x3FCA5F7D05AF1CEF, 0x3FCCC49F92154009, 0x3FCA5F7D05AF1CEF, 0x3FC3EBCA8446546C,
  0x3FB6AD065560DF90, 0x3F9845B567DC53F0, 0xBF9790DDE2BFE7A9, 0xBFA64D097A453E78, 0xBFA440A301AD2806,
  0xBF94B2EDA0E33551, 0x3F62E35BF6CCEA3A, 0x3F9250DC5A931D5C, 0x3F9655282836FB7D, 0x3F8F6F445178976A,
  0x3F6F80DFB80C80F8, 0xBF7A987703F0A8E6, 0xBF87775AF8C560FE, 0xBF84E6CB45496BB0, 0xBF73CF73EE23F8DA,
  0x3F54628D0AF7A31A, 0x3F752F992EEA0FE8, 0x3F77B3579E8D5A1A, 0x3F6E7A961B574631, 0x3F45128C28C14B25,
  0xBF5D5ED5D46A3D01, 0xBF6629FA94B52216, 0xBF61C05542F1E9FF, 0xBF4CA851A425AE4C, 0x3F3832F41BD85A98,
  0x3F514FD647ACA5C2, 0x3F51DFA4CF7C80F8, 0x3F45D10408C0B363, 0x3F1157FA9667CD3C, 0xBF3E9EBFF35B26F8]

/-- `KERNEL(5)`, the reference table. -/
def refKernel5 : List F64 := samplesOf [
  0xBF41E360A2CE2219, 0xBF4AD9AEE8FF0308, 0xBF4D702B9F7D54E0, 0xBF46EE3F7853C1A7, 0xBF2586742160836B,
  0x3F4623C579384FEE, 0x3F5ABC1E920C0A3D, 0x3F6346B065046069, 0x3F63BD8FA5A879FA, 0x3F5802E231895A7A,
  0xBF40F00B96F95F08, 0xBF69A1DA3610A752, 0xBF769D1557718DF7, 0xBF7B12CEFF3EE928, 0xBF765F826DF83370,
  0xBF5C82953ACC21C1, 0x3F703BAD0904401B, 0x3F849D875A0A9364, 0x3F8D53EB5A544263, 0x3F8DA90030ED4CE7,
  0x3F82C78435AE9D17, 0xBF56942972DF4AEC, 0xBF8E8C86D028E3F0, 0xBF9C11DD37F76293, 0xBFA15A0B3E0F6640,
  0xBF9E76D9E925A98C, 0xBF88FA7A48F19D4C, 0x3F931753C6602544, 0x3FAE5BD5F52E21B5, 0x3FBA787EDC019CA7,
  0x3FC24F16480E0BFB, 0x3FC5D45CA1E4E36C, 0x3FC716CA2B4D84B6, 0x3FC5D45CA1E4E36C, 0x3FC24F16480E0BFB,
  0x3FBA787EDC019CA7, 0x3FAE5BD5F52E21B6, 0x3F931753C6602545, 0xBF88FA7A48F19D4C, 0xBF9E76D9E925A98D,
  0xBFA15A0B3E0F6641, 0xBF9C11DD37F76295, 0xBF8E8C86D028E3F0, 0xBF56942972DF4AED, 0x3F82C78435AE9D1A,
  0x3F8DA90030ED4CE8, 0x3F8D53EB5A544265, 0x3F849D875A0A9364, 0x3F703BAD0904401B, 0xBF5C82953ACC21C7,
  0xBF765F826DF83370, 0xBF7B12CEFF3EE92B, 0xBF769D1557718DF6, 0xBF69A1DA3610A754, 0xBF40F00B96F95F0C,
  0x3F5802E231895A78, 0x3F63BD8FA5A879FC, 0x3F6346B06504606E, 0x3F5ABC1E920C0A3D, 0x3F4623C579384FF0,
  0xBF25867421608370, 0xBF46EE3F7853C1A7, 0xBF4D702B9F7D54E6, 0xBF4AD9AEE8FF0308, 0xBF41E360A2CE2219]

/-- `KERNEL(6)`, the reference table. -/
def refKernel6 : List F64 := samplesOf [
  0x3F3E948A0205A5DA, 0x3F4896846507EB77, 0x3F4ED01DDA40BEF6, 0x3F4FE86A90BC0D4C, 0x3F491F729A226934,
  0x3F3031E73BE54CCA, 0xBF437B188F3ABA88, 0xBF5B231A52653035, 0xBF662296830A4FB6, 0xBF6BB93CBA46C238,
  0xBF6B3587A11D1AA5, 0xBF622C5D5F26A882, 0x3C4394F5F189C1A7, 0x3F6943BDF4A5AC83, 0x3F7A5247B5F7BB56,
  0x3F82B315C5E06D05, 0x3F84DFD2F8E2F166, 0x3F81EFD774D09F54, 0x3F72144538D555A8, 0xBF65155395BE1239,
  0xBF86CF10D57DB36E, 0xBF93EF1EAD50841A, 0xBF99DE69B40EBF02, 0xBF9AC70B568109EA, 0xBF94AC06A01B24A4,
  0xBF7A0820212858D1, 0x3F8EE5AAFEF31911, 0x3FA5BE61C4B9BF53, 0x3FB2A6BAC2659751, 0x3FBA3BB69041BC23,
  0x3FC04BCE237FCC18, 0x3FC2696A8EEB52CE, 0x3FC3275A7CF42E6B, 0x3FC2696A8EEB52CE, 0x3FC04BCE237FCC18,
  0x3FBA3BB69041BC23, 0x3FB2A6BAC2659751, 0x3FA5BE61C4B9BF54, 0x3F8EE5AAFEF31911, 0xBF7A0820212858D2,
  0xBF94AC06A01B24A5, 0xBF9AC70B568109EC, 0xBF99DE69B40EBF02, 0xBF93EF1EAD50841B, 0xBF86CF10D57DB371,
  0xBF65155395BE123A, 0x3F72144538D555AA, 0x3F81EFD774D09F54, 0x3F84DFD2F8E2F168, 0x3F82B315C5E06D09,
  0x3F7A5247B5F7BB56, 0x3F6943BDF4A5AC86, 0x3C4394F5F189C1A6, 0xBF622C5D5F26A884, 0xBF6B3587A11D1AAB,
  0xBF6BB93CBA46C236, 0xBF662296830A4FB7, 0xBF5B231A5265303C, 0xBF437B188F3ABA88, 0x3F3031E73BE54CCC,
  0x3F491F729A22693B, 0x3F4FE86A90BC0D4C, 0x3F4ED01DDA40BEFC, 0x3F4896846507EB77, 0x3F3E948A0205A5DA]

/-- `KERNEL(7)`, the reference table. -/
def refKernel7 : List F64 := samplesOf [
  0x3F325CE7BDF18982, 0xBF03E5F845DE8B53, 0xBF3ADBD6031E3260, 0xBF4B16EDB0EA4886, 0xBF546A8D15064014,
  0xBF59E4A0E2C09E37, 0xBF5BE1BD282CE220, 0xBF58092432BC5084, 0xBF48E0EBEFCCFAD0, 0x3F3E473082921C74,
  0x3F6153DB11C01D19, 0x3F7043EE2AD05165, 0x3F772E15AB5CC1DF, 0x3F7B8042D69E7BEE, 0x3F7B466647DE57DF,
  0x3F74F424D7DB4A14, 0x3F5F7E57BF2F58C2, 0xBF66AE0F9189A7D0, 0xBF81458B0ABABBE1, 0xBF8D0DE29AA78B6C,
  0xBF9350309A7282AD, 0xBF95A9CC234C5BF7, 0xBF9450E58CCA84B8, 0xBF8C9C4D0CB0EA81, 0xBF695574F7163225,
  0x3F89D3AE6984B1ED, 0x3FA0851F1AEE991F, 0x3FABD45F46DE7DF8, 0x3FB3ADF2DD9FC122, 0x3FB8FA7D29C46937,
  0x3FBD3FE757DF61F9, 0x3FC002D0032E22C6, 0x3FC07DC6C2773E01, 0x3FC002D0032E22C6, 0x3FBD3FE757DF61F9,
  0x3FB8FA7D29C46937, 0x3FB3ADF2DD9FC122, 0x3FABD45F46DE7DF9, 0x3FA0851F1AEE991F, 0x3F89D3AE6984B1EE,
  0xBF695574F7163225, 0xBF8C9C4D0CB0EA83, 0xBF9450E58CCA84B8, 0xBF95A9CC234C5BF8, 0xBF9350309A7282B0,
  0xBF8D0DE29AA78B6D, 0xBF81458B0ABABBE3, 0xBF66AE0F9189A7D0, 0x3F5F7E57BF2F58C4, 0x3F74F424D7DB4A18,
  0x3F7B466647DE57DF, 0x3F7B8042D69E7BF1, 0x3F772E15AB5CC1DE, 0x3F7043EE2AD05167, 0x3F6153DB11C01D1D,
  0x3F3E473082921C72, 0xBF48E0EBEFCCFAD2, 0xBF58092432BC508A, 0xBF5BE1BD282CE220, 0xBF59E4A0E2C09E3A,
  0xBF546A8D1506401A, 0xBF4B16EDB0EA4886, 0xBF3ADBD6031E3265, 0xBF03E5F845DE8B53, 0x3F325CE7BDF18982]

/-- `KERNEL(8)`, the reference table. -/
def refKernel8 : List F64 := samplesOf [
  0xBF48D71C10E9EC4F, 0xBF4BAFAFDB974BBC, 0xBF4C953A7874CB25, 0xBF4A674CF5250AFD, 0xBF437BA2D9BA0564,
  0xBF286F5658448ED2, 0x3F3D8D8414EFA464, 0x3F55687150808993, 0x3F62E7D6BA360915, 0x3F6B1FF87D22993C,
  0x3F70D5120FC55315, 0x3F724011B2B6F9BE, 0x3F70CE0C90F10892, 0x3F676498BE8FBE36, 0x3F448112C9FD86B6,
  0xBF64A3C48957D56C, 0xBF79E81F066CE09B, 0xBF852D55B1639217, 0xBF8C8F520D64D13A, 0xBF90CC3F36021B7B,
  0xBF915B95D03A407A, 0xBF8E7F0462528B2E, 0xBF83E1223597BF13, 0xBF52F463741FC5A3, 0x3F85D2EF391346C4,
  0x3F99DC1C48B94D89, 0x3FA56638D41F16FA, 0x3FAE481BF2B6B56A, 0x3FB372C0008402B4, 0x3FB744889EC7D964,
  0x3FBA45198D514CBA, 0x3FBC300EA863E1F5, 0x3FBCD8DCC1DB251C, 0x3FBC300EA863E1F5, 0x3FBA45198D514CBA,
  0x3FB744889EC7D964, 0x3FB372C0008402B5, 0x3FAE481BF2B6B56B, 0x3FA56638D41F16FA, 0x3F99DC1C48B94D8A,
  0x3F85D2EF391346C5, 0xBF52F463741FC5A5, 0xBF83E1223597BF13, 0xBF8E7F0462528B2F, 0xBF915B95D03A407D,
  0xBF90CC3F36021B7C, 0xBF8C8F520D64D13C, 0xBF852D55B1639217, 0xBF79E81F066CE09D, 0xBF64A3C48957D570,
  0x3F448112C9FD86B6, 0x3F676498BE8FBE39, 0x3F70CE0C90F10892, 0x3F724011B2B6F9C0, 0x3F70D5120FC55318,
  0x3F6B1FF87D22993A, 0x3F62E7D6BA360916, 0x3F55687150808999, 0x3F3D8D8414EFA464, 0xBF286F5658448ED4,
  0xBF437BA2D9BA056A, 0xBF4A674CF5250AFD, 0xBF4C953A7874CB2A, 0xBF4BAFAFDB974BBC, 0xBF48D71C10E9EC4F]

/-- `KERNEL(9)`, the reference table. -/
def refKernel9 : List F64 := samplesOf [
  0xBF3E9F57D11E18D5, 0xBF311420B37F2D7D, 0x3C1986D3EE5FAFC8, 0x3F3629B99914A40A, 0x3F492852D235B8E4,
  0x3F54F7A3A5D3D528, 0x3F5E04F1538A5174, 0x3F63371F76311AB5, 0x3F662A6881E0CFFD, 0x3F66BD61650B9BB8,
  0x3F63CBBCE288E591, 0x3F58C62D12403D34, 0xBC3A252C04A72EC6, 0xBF6138769C33AA32, 0xBF732667462CED0E,
  0xBF7EAD0A3310AE2B, 0xBF84E732EF8FB045, 0xBF8966CE820F2F57, 0xBF8BDC01421DF9FD, 0xBF8B4BD69AF805E1,
  0xBF86D71FC3F8F7EA, 0xBF7BB12ED36937E6, 0x3C4C93066DA88FFC, 0x3F82997749CE5C3F, 0x3F94B35449EC7FF0,
  0x3FA0D9F8D8DCE2E5, 0x3FA7CE433C1A3001, 0x3FAECAEAB22878E5, 0x3FB2AD51A9AF4291, 0x3FB58471359458B4,
  0x3FB7B65A9348BDE8, 0x3FB9196705990404, 0x3FB992D3C7664E26, 0x3FB9196705990404, 0x3FB7B65A9348BDE8,
  0x3FB58471359458B4, 0x3FB2AD51A9AF4291, 0x3FAECAEAB22878E6, 0x3FA7CE433C1A3001, 0x3FA0D9F8D8DCE2E6,
  0x3F94B35449EC7FF1, 0x3F82997749CE5C40, 0x3C4C93066DA88FFC, 0xBF7BB12ED36937E8, 0xBF86D71FC3F8F7ED,
  0xBF8B4BD69AF805E2, 0xBF8BDC01421DFA00, 0xBF8966CE820F2F57, 0xBF84E732EF8FB047, 0xBF7EAD0A3310AE30,
  0xBF732667462CED0E, 0xBF6138769C33AA34, 0xBC3A252C04A72EC5, 0x3F58C62D12403D37, 0x3F63CBBCE288E595,
  0x3F66BD61650B9BB7, 0x3F662A6881E0CFFF, 0x3F63371F76311ABA, 0x3F5E04F1538A5174, 0x3F54F7A3A5D3D52A,
  0x3F492852D235B8EA, 0x3F3629B99914A40A, 0x3C1986D3EE5FAFCD, 0xBF311420B37F2D7D, 0xBF3E9F57D11E18D5]

/-- `KERNEL(10)`, the reference table. -/
def refKernel10 : List F64 := samplesOf [
  0x3F3328C74CA93F4A, 0x3F40EB810FC7616B, 0x3F48F00280EF385A, 0x3F50DA6FEB992A32, 0x3F55562A37C68970,
  0x3F59447A4A9CFB0C, 0x3F5BA1D228EA4C56, 0x3F5B25B434FD87EB, 0x3F566EEC05F96CFC, 0x3F48806651D6584E,
  0xBF30E6906E146A28, 0xBF5B212D8FC97BA8, 0xBF6BD5F6FE4FA78A, 0xBF75FE8CBFD13170, 0xBF7E42FB6A897D36,
  0xBF82DB0DA1756BF9, 0xBF85915EEC5AD2E3, 0xBF869C3972184B71, 0xBF85551208E3B87C, 0xBF81286694F7A71B,
  0xBF734ED39EA3D2A9, 0x3F467EFBE541E621, 0x3F7FFCD141BF02EA, 0x3F90E60FC5A028EF, 0x3F9B1BC8B970D7D1,
  0x3FA318E2C7DD2F12, 0x3FA8CEF96F093EFF, 0x3FAE620BBFF9BEAF, 0x3FB1C056779ED42C, 0x3FB3EE3BDED42DD7,
  0x3FB5983200F93AB9, 0x3FB6A33F43C3C31E, 0x3FB6FE3A2C882F3F, 0x3FB6A33F43C3C31E, 0x3FB5983200F93AB9,
  0x3FB3EE3BDED42DD7, 0x3FB1C056779ED42D, 0x3FAE620BBFF9BEB0, 0x3FA8CEF96F093EFF, 0x3FA318E2C7DD2F12,
  0x3F9B1BC8B970D7D2, 0x3F90E60FC5A028F0, 0x3F7FFCD141BF02EA, 0x3F467EFBE541E622, 0xBF734ED39EA3D2AB,
  0xBF81286694F7A71C, 0xBF85551208E3B87F, 0xBF869C3972184B71, 0xBF85915EEC5AD2E5, 0xBF82DB0DA1756BFD,
  0xBF7E42FB6A897D36, 0xBF75FE8CBFD13173, 0xBF6BD5F6FE4FA789, 0xBF5B212D8FC97BAB, 0xBF30E6906E146A2C,
  0x3F48806651D6584C, 0x3F566EEC05F96CFD, 0x3F5B25B434FD87F2, 0x3F5BA1D228EA4C56, 0x3F59447A4A9CFB0F,
  0x3F55562A37C68975, 0x3F50DA6FEB992A32, 0x3F48F00280EF385E, 0x3F40EB810FC7616B, 0x3F3328C74CA93F4A]

/-- The reference configuration tables: the kernels above and the gain `toF64(M)` for M in 2..10 (D31). -/
def Tables.reference : Tables where
  kernel := [refKernel2, refKernel3, refKernel4, refKernel5, refKernel6, refKernel7, refKernel8, refKernel9, refKernel10]
  upGain := [2, 3, 4, 5, 6, 7, 8, 9, 10].map F64.ofNat

end Sys2Proof.Machine
end

