-- ==== Sys2Proof/Machine/State.lean ====
section
/-! DEFINITION. The state of one instance (10_state.md R20), the model's own fields beside it, the refusals, and the state right
after reset (R33). -/

namespace Sys2Proof.Machine

/-- The results of the operation performed last (30_encoding.md R119), as the host reads them. The block stores no result (R25):
this is the model's result port (log 18). -/
inductive Reply where
  /-- the operation has no result -/
  | none
  /-- RB_COPY_LATEST: `k` and the caller's destination array after the copy -/
  | copied (k : Nat) (dest : List F64)
  /-- RB_NEW_DATA_SINCE: `seq` and `cursor'` -/
  | fresh (seq : List F64) (cursor : BitVec 64)
  /-- RB_CAPACITY -/
  | capacity (c : Nat)
  /-- RB_COUNT -/
  | count (n : Nat)
  /-- FP_PARSE: `samples`, one array per channel, and `status` -/
  | parsed (samples : List (List F64)) (status : Status)
  /-- DF_APPLY: `y` -/
  | sample (y : F64)
  /-- RS_PROCESS: `y` -/
  | samples (ys : List F64)
  /-- DF_KIND -/
  | kind (k : BitVec 4)
  /-- DF_PARAMS -/
  | params (ps : List FParam)
  deriving DecidableEq, Repr

/-- The settings snapshot of a block (R30, 42_channel_stage.md R215): every channel's settings and `FACTOR` at its step 0. -/
structure Snapshot where
  channels : List ChannelSettings
  factor : Int
  deriving DecidableEq, Repr

/-- A `CH_PROCESS_BLOCK` between its step 0 and its last commit step (R30, 42_channel_stage.md R214): the agent that issued it, the
settings snapshot it was processed with, and the channels not yet committed, each with its result array. -/
structure Flight where
  agent : Nat
  snapshot : Snapshot
  pending : List (BitVec 8 × List F64)
  deriving DecidableEq, Repr

/-- What the schedule brings next (20_memory.md R82): an agent's next operation, or a commit step of an agent's block. -/
inductive Event where
  | issue (agent : Nat) (cmd : Command)
  | commit (agent : Nat) (chan : BitVec 8)
  deriving DecidableEq, Repr

/-- The state of one instance of the block and of its host interface. -/
structure State where
  /-- a `SYS_RESET` has been performed; before the first one every other operation is refused (70_reset_and_hazards.md R352) -/
  ready : Bool
  /-- CR0 to CR10 (R22) -/
  cr : Params
  /-- `RES` (R21) -/
  res : List Byte
  /-- the channels, by index (R26 to R29) -/
  chans : List Channel
  /-- `FACTOR` (R29) -/
  factor : Int
  /-- the in-flight records (R30) -/
  flights : List Flight
  /-- the model's own: configuration tables, written by no operation (R31, log 4) -/
  tables : Tables
  /-- the model's own: the schedule the host presents (log 1) -/
  inbox : List Event
  /-- the model's own: the agent whose operation is being performed (log 12) -/
  turn : Nat
  /-- the model's own: the result port (log 18) -/
  reply : Reply
  deriving DecidableEq, Repr

/-- Why the machine would stop with a fault: never. "No behaviour of this block is treated as `stuck`: nothing in the source halts
the datapath" (93_implementation_defined.md Part 1), and its one exception is a next state (60_exceptions.md R321). The type
has no constructor, so no step can answer a fault. -/
inductive Fault where
  deriving DecidableEq, Repr

/-- The situations the spec refuses: "gives no meaning and no step to" (60_exceptions.md R325). Each is safe: a claim about a step
cannot be proved where there is no step. -/
inductive Refusal where
  /-- raised by `exec` for an instruction without a meaning; none is left. Safe. -/
  | notModelled (mnemonic : String)
  /-- R325 (i), R352: raised by every operation but SYS_RESET before the first SYS_RESET. Safe. -/
  | notReset
  /-- R325 (a): raised by SYS_RESET on construction parameters outside 00_scope.md R5. Safe. -/
  | badConstruction
  /-- R325 (b), 30_encoding.md R118: raised by step on a reserved `op`. Safe. -/
  | reservedOp
  /-- R325 (b), R118: raised by step on a non-zero `chan` of an operation without a channel. Safe. -/
  | channelNotZero
  /-- R119: raised by step on operands that are not those of the operation; such a command names no operation. Safe. -/
  | wrongOperands
  /-- R325 (b), R118: raised by an operation on `chan >= NCH`. Safe. -/
  | noSuchChannel
  /-- R325 (c): raised by FP_PARSE on a chunk longer than CHUNK_MAX. Safe. -/
  | chunkTooLong
  /-- R325 (d): raised by RB_COPY_LATEST on a destination shorter than min(n, COUNT). Safe. -/
  | destinationTooShort
  /-- R325 (e), 40_ringbuffer.md R149: raised by a write that would take TOTAL past 2^64 - 1. Safe. -/
  | totalOverflow
  /-- R325 (f): raised by CH_PROCESS_BLOCK on arrays of unequal length or not NCH of them. Safe. -/
  | badBlock
  /-- R325 (g), 43_digitalfilter.md R246: raised by DF_SELECT on a reserved kind or illegal parameters. Safe. -/
  | badFilter
  /-- R325 (h), 44_resampler.md R291: raised by RS_SET_FACTOR outside [-9, 9]. Safe. -/
  | badFactor
  deriving DecidableEq, Repr

/-- The machine right after `SYS_RESET` (R33, R350) with the construction parameters `Params.default` (log 2), nothing presented
by the host. -/
def State.reset : State where
  ready := true
  cr := Params.default
  res := []
  chans := Params.default.caps.map Channel.reset
  factor := 0
  flights := []
  tables := Tables.reference
  inbox := []
  turn := 0
  reply := .none

/-- A state before the first `SYS_RESET` (R352): every operation but SYS_RESET is refused. The spec leaves every other element
unspecified; those of `State.reset` stand here, and nothing can read them. -/
def State.powerOn : State := { State.reset with ready := false }

end Sys2Proof.Machine
end

