-- ==== Sys2Proof/Machine/Ops.lean ====
section
/-! DEFINITION. The named operations over the state: channel access with its refusals, RingBuffer reads and writes
(40_ringbuffer.md), the one exception (60_exceptions.md R321), and the commit steps of a block (42_channel_stage.md R214). -/

namespace Sys2Proof.Machine

/-- What a step of this machine answers. -/
abbrev Result := Host.Outcome State Fault Refusal

/-- The channel of an index, when `chan < NCH` (30_encoding.md R118). -/
def State.chan? (s : State) (c : BitVec 8) : Option Channel :=
  if c.toNat < s.cr.nch then s.chans[c.toNat]? else Option.none

/-- `CAP[c]`, from CR8. -/
def State.cap (s : State) (c : BitVec 8) : Nat := s.cr.caps.getD c.toNat 0

/-- The state with channel `c` replaced. -/
def State.setChan (s : State) (c : BitVec 8) (ch : Channel) : State :=
  { s with chans := s.chans.set c.toNat ch }

/-- The settings in force (42_channel_stage.md R215). -/
def State.snapshot (s : State) : Snapshot where
  channels := s.chans.map Channel.settings
  factor := s.factor

/-- The state with the results of an operation at the result port. -/
def State.answer (s : State) (r : Reply) : State := { s with reply := r }

/-- Refuse before the first `SYS_RESET` (R352). -/
def whenReady (s : State) (go : Result) : Result :=
  if s.ready then go else .refused .notReset

/-- Run on the channel a command word names, refusing `chan >= NCH` (R118, R140). -/
def onChannel (s : State) (c : BitVec 8) (go : Channel → Result) : Result :=
  whenReady s (match s.chan? c with
    | some ch => go ch
    | Option.none => .refused .noSuchChannel)

/-! ## RingBuffer (10_state.md R26) -/

/-- The four assignments of R141, for a capacity `cap`. -/
def Ring.add (cap : Nat) (r : Ring) (value : F64) : Ring where
  buf := r.buf.set r.head (some value)
  head := (r.head + 1) % cap
  count := min (r.count + 1) cap
  total := r.total + 1

/-- R142: append in order. None when `TOTAL` would pass 2^64 - 1 (R149). -/
def Ring.append (cap : Nat) (r : Ring) (values : List F64) : Option Ring :=
  if r.total.toNat + values.length < 2 ^ 64 then some (values.foldl (Ring.add cap) r) else Option.none

/-- `BUF[c][i mod C]`. An element that holds no value reads as a free value (93 U12, log 10). -/
def Ring.read (cap : Nat) (r : Ring) (i : Int) : F64 :=
  let j := (i % (cap : Int)).toNat
  (r.buf.getD j Option.none).getD (Config.unheld j)

/-- The `k` newest samples, oldest first (R143). -/
def Ring.latest (cap : Nat) (r : Ring) (k : Nat) : List F64 :=
  (List.range k).map (fun i => r.read cap ((r.head : Int) - k + i))

/-- The samples with sequence numbers from `max(min(cursor, t), t - COUNT)` to `t - 1`, where `t` is `TOTAL` (R144). -/
def Ring.since (cap : Nat) (r : Ring) (cursor : BitVec 64) : List F64 :=
  let t := r.total.toNat
  let start := max (min cursor.toNat t) (t - r.count)
  (List.range (t - start)).map (fun i => r.read cap ((r.head : Int) - ((t : Int) - (start + i))))

/-- R145: `COUNT` and `HEAD` to 0, `TOTAL` kept, no element holds a value. -/
def Ring.clear (r : Ring) : Ring where
  buf := r.buf.map (fun _ => Option.none)
  head := 0
  count := 0
  total := r.total

/-! ## The exception -/

/-- `raise Discard` (60_exceptions.md R321), the block's one exception: `RES` becomes empty, the operation returns `NCH` empty
arrays and DISCARDED, nothing else changes. Entry saves nothing and transfers control nowhere (R323); there is no return
operation, the next FP_PARSE simply starts from the empty residue (R324). -/
def raiseDiscard (s : State) : State :=
  { s with res := [], reply := .parsed (List.replicate s.cr.nch []) .discarded }

/-! ## Commit steps (42_channel_stage.md R214, R217) -/

/-- The blocks between their steps. Before the first `SYS_RESET` no block has been issued, so whatever an unspecified state holds in
that place is none (70_reset_and_hazards.md R352). -/
def State.inFlight (s : State) : List Flight := if s.ready then s.flights else []

/-- The result array that agent `a`'s block still has to commit to channel `c`. -/
def findPending (a : Nat) (c : BitVec 8) (flights : List Flight) : Option (List F64) :=
  (flights.find? (fun f => f.agent == a)).bind (fun f => (f.pending.find? (fun p => p.1 == c)).map Prod.snd)

/-- The channel a block of agent `a` would commit next if nothing else chose: the first one pending. -/
def nextPending (a : Nat) (flights : List Flight) : Option (BitVec 8) :=
  (flights.find? (fun f => f.agent == a)).bind (fun f => f.pending.head?.map Prod.fst)

/-- The records after agent `a`'s block has committed channel `c`; a record is dropped after its last commit (R214). -/
def dropPending (a : Nat) (c : BitVec 8) : List Flight → List Flight
  | [] => []
  | f :: rest =>
      if f.agent = a then
        let left := f.pending.eraseP (fun p => p.1 == c)
        if left.isEmpty then rest else { f with pending := left } :: rest
      else f :: dropPending a c rest

/-- One commit step: `RB_ADD_RANGE c, out[c]` of agent `a`'s block (R214). An event that names no pending channel is no step of
the block and is dropped (log 12). -/
def commitStep (s : State) (a : Nat) (c : BitVec 8) : Result :=
  match findPending a c s.inFlight with
  | Option.none => .next s
  | some values => onChannel s c (fun ch =>
      match ch.ring.append (s.cap c) values with
      | Option.none => .refused .totalOverflow
      | some r => .next { s.setChan c { ch with ring := r } with flights := dropPending a c s.flights })

/-- With no event left, a block in flight still makes its commit steps (weak fairness, 20_memory.md R81); with none in flight the
block waits for operations (R352, log 13). -/
def drainStep (s : State) : Result :=
  match s.inFlight with
  | [] => .next s
  | f :: _ =>
      match f.pending with
      | [] => .next s
      | p :: _ => commitStep s f.agent p.1

end Sys2Proof.Machine
end

