-- ==== Sys2Proof/Machine/DigitalFilter.lean ====
section
/-! DEFINITION. DigitalFilter operations (43_digitalfilter.md R230 to R250). Each `*Step` takes one sample through one kind of
filter: the registers after it and the output. -/

namespace Sys2Proof.Machine

/-! ## The kinds -/

/-- The exponential low-pass formula `(ALPHA * x) + ((1.0 - ALPHA) * Y_LP)` (R233). -/
def lowPassValue (r : LowPass) (x : F64) : F64 :=
  F64.add (F64.mul r.alpha x) (F64.mul (F64.sub .one r.alpha) r.yLp)

/-- `DF_APPLY.LP` (R233). -/
def lpStep (r : LowPass) (x : F64) : LowPass × F64 :=
  let y := lowPassValue r x
  ({ r with yLp := y }, y)

/-- `DF_APPLY.HP` (R234): the internal low-pass first, its new output subtracted. -/
def hpStep (r : LowPass) (x : F64) : LowPass × F64 :=
  let low := lowPassValue r x
  ({ r with yLp := low }, F64.sub x low)

/-- `WIN[i]`; an element that holds no value reads as a free value (93 U12, log 10). -/
def readWindow (win : List (Option F64)) (i : Nat) : F64 := (win.getD i Option.none).getD (Config.unheld i)

/-- `DF_APPLY.MAVG` (R235): running sum, mean over the `N` samples present. -/
def mavgStep (r : MovingAverage) (x : F64) : MovingAverage × F64 :=
  let dropped := if r.n = r.w then F64.sub r.sum (readWindow r.win r.idx) else r.sum
  let n := if r.n = r.w then r.n else r.n + 1
  let sum := F64.add dropped x
  ({ r with win := r.win.set r.idx (some x), idx := (r.idx + 1) % r.w, n := n, sum := sum }, F64.div sum (F64.ofNat n))

/-- Insert into an ascending list by numeric `<`. -/
def insertAscending (x : F64) : List F64 → List F64
  | [] => [x]
  | y :: rest => if F64.lt y x then y :: insertAscending x rest else x :: y :: rest

/-- Ascending by numeric `<`; the order of zeros of unlike sign is free and `medianOf` does not depend on it. -/
def sortAscending : List F64 → List F64
  | [] => []
  | x :: rest => insertAscending x (sortAscending rest)

/-- The window holds zeros of both signs (R236). -/
def mixedZeros (vs : List F64) : Bool := vs.any (fun v => v.isZero && v.sign) && vs.any (fun v => v.isZero && !v.sign)

/-- The median of the values present (R236). With a NaN among them it is a free value (log 8). A zero median of a window with zeros of
both signs has a free sign (93 U11), be it a middle value or a mean that rounds to zero (log 9). -/
def medianOf (draws : Nat) (vs : List F64) : F64 :=
  if vs.any F64.isNaN then Config.medianDraw draws vs
  else
    let v := sortAscending vs
    let half := vs.length / 2
    let high := v.getD half .zero
    let low := v.getD (half - 1) .zero
    let y := if vs.length % 2 = 1 then high else F64.div (F64.add low high) .two
    if y.isZero && mixedZeros vs then F64.signedZero (Config.medianZeroNeg draws vs) else y

/-- `DF_APPLY.MEDIAN` (R236). -/
def medianStep (r : MedianFilter) (x : F64) : MedianFilter × F64 :=
  let n := if r.n < r.w then r.n + 1 else r.n
  let win := r.win.set r.idx (some x)
  let present := (List.range n).map (readWindow win)
  ({ r with win := win, idx := (r.idx + 1) % r.w, n := n, draws := r.draws + 1 }, medianOf r.draws present)

/-- The delay registers after a sample `x` with output `y` (R237, R238). -/
def Delay.shift (d : Delay) (x y : F64) : Delay := { x1 := x, x2 := d.x1, y1 := y, y2 := d.y1 }

/-- The notch output `(((x - (C1 * X1)) + X2) + (C2 * Y1)) - (C3 * Y2)` (R237). -/
def notchValue (r : Notch) (x : F64) : F64 :=
  F64.sub (F64.add (F64.add (F64.sub x (F64.mul r.c1 r.delay.x1)) r.delay.x2) (F64.mul r.c2 r.delay.y1))
    (F64.mul r.c3 r.delay.y2)

/-- `DF_APPLY.NOTCH` (R237). -/
def notchStep (r : Notch) (x : F64) : Notch × F64 :=
  let y := notchValue r x
  ({ r with delay := r.delay.shift x y }, y)

/-- The biquad output `((((B0 * x) + (B1 * X1)) + (B2 * X2)) - (A1 * Y1)) - (A2 * Y2)` (R238). -/
def biquadValue (r : Biquad) (x : F64) : F64 :=
  F64.sub
    (F64.sub (F64.add (F64.add (F64.mul r.b0 x) (F64.mul r.b1 r.delay.x1)) (F64.mul r.b2 r.delay.x2))
      (F64.mul r.a1 r.delay.y1))
    (F64.mul r.a2 r.delay.y2)

/-- `DF_APPLY.BIQUAD` (R238). -/
def biquadStep (r : Biquad) (x : F64) : Biquad × F64 :=
  let y := biquadValue r x
  ({ r with delay := r.delay.shift x y }, y)

/-- The anchors and counter of INTERP after the tick of R241 that takes in `x`, before the output. -/
def interpTick (r : Interp) (x : F64) : Interp :=
  if r.primed = false then { r with a0 := x, a1 := x, primed := true, k := 0 }
  else if r.k = 0 then { r with a0 := r.a1, a1 := x }
  else r

/-- `DF_APPLY.INTERP` (R241): `y = A0 + ((A1 - A0) * (toF64(K) / toF64(NDEC)))`. -/
def interpStep (r : Interp) (x : F64) : Interp × F64 :=
  let t := interpTick r x
  ({ t with k := (t.k + 1) % t.ndec },
    F64.add t.a0 (F64.mul (F64.sub t.a1 t.a0) (F64.div (F64.ofNat t.k) (F64.ofNat t.ndec))))

/-- One sample through a filter instance (R231): the variant its kind selects. -/
def dfStep : DFilter → F64 → DFilter × F64
  | .none, x => (.none, x)
  | .lp r, x => (.lp (lpStep r x).1, (lpStep r x).2)
  | .hp r, x => (.hp (hpStep r x).1, (hpStep r x).2)
  | .mavg r, x => (.mavg (mavgStep r x).1, (mavgStep r x).2)
  | .median r, x => (.median (medianStep r x).1, (medianStep r x).2)
  | .notch r, x => (.notch (notchStep r x).1, (notchStep r x).2)
  | .biquad r, x => (.biquad (biquadStep r x).1, (biquadStep r x).2)
  | .abs, x => (.abs, F64.abs x)
  | .square, x => (.square, F64.mul x x)
  | .interp r, x => (.interp (interpStep r x).1, (interpStep r x).2)

/-- A block of samples through a filter instance, in index order (30_encoding.md R123). -/
def dfBlock : DFilter → List F64 → DFilter × List F64
  | f, [] => (f, [])
  | f, x :: xs =>
      let one := dfStep f x
      let more := dfBlock one.1 xs
      (more.1, one.2 :: more.2)

/-! ## Selection -/

/-- `notchCoef(F0, FS, BW)` (R250): `C1 = 2.0 * cw`, `C2 = r * C1`, `C3 = r * r`, of which the rules assume nothing more. -/
def notchCoef (f0 fs bw : F64) : F64 × F64 × F64 :=
  let r := Config.notchRadius f0 fs bw
  let c1 := F64.mul .two (Config.notchCos f0 fs bw)
  (c1, F64.mul r c1, F64.mul r r)

/-- The filter instance of a kind with its registers at their reset values (R245); none for a reserved kind or illegal parameters
(R246). -/
def createFilter (wMax : Nat) (kind : BitVec 4) (ps : List FParam) : Option DFilter :=
  if filterLegal wMax kind ps then
    match kind.toNat, ps with
    | 0, [] => some .none
    | 1, [.real alpha] => some (.lp ⟨alpha, .zero⟩)
    | 2, [.real alpha] => some (.hp ⟨alpha, .zero⟩)
    | 3, [.int w] => some (.mavg ⟨w.toNat, emptyWindow w.toNat, 0, 0, .zero⟩)
    | 4, [.int w] => some (.median ⟨w.toNat, emptyWindow w.toNat, 0, 0, 0⟩)
    | 5, [.real f0, .real fs, .real bw] =>
        let c := notchCoef f0 fs bw
        some (.notch ⟨f0, fs, bw, c.1, c.2.1, c.2.2, .reset⟩)
    | 6, [.real b0, .real b1, .real b2, .real a1, .real a2] => some (.biquad ⟨b0, b1, b2, a1, a2, .reset⟩)
    | 7, [] => some .abs
    | 8, [] => some .square
    | 9, [.int n] => some (.interp ⟨n.toNat, 0, .zero, .zero, false⟩)
    | _, _ => Option.none
  else Option.none

/-! ## The operations -/

/-- Store a new filter instance in channel `c`. -/
def State.setFilter (s : State) (c : BitVec 8) (ch : Channel) (f : DFilter) : State :=
  s.setChan c { ch with filter := f }

/-- The end of a `DF_APPLY`: the filter instance after the sample stored, the output `y` at the result port, unsanitised (42 R220). -/
def finishApply (s : State) (c : BitVec 8) (ch : Channel) (o : DFilter × F64) : Result :=
  .next ((s.setFilter c ch o.1).answer (.sample o.2))

/-- `DF_APPLY c, x -> y` (R231). -/
def execDfApply (c : BitVec 8) (x : F64) (s : State) : Result :=
  onChannel s c (fun ch => finishApply s c ch (dfStep ch.filter x))

/-- `DF_APPLY.NONE`, the row of KIND = 0 (R232). For this and the next nine: the suffix does not change the command word
(30_encoding.md R122), so with another kind selected the word is that of DF_APPLY and does what DF_APPLY does (log 14). -/
def execDfApplyNone (c : BitVec 8) (x : F64) (s : State) : Result :=
  onChannel s c (fun ch => match ch.filter with
    | .none => finishApply s c ch (.none, x)
    | f => finishApply s c ch (dfStep f x))

/-- `DF_APPLY.LP`, the row of KIND = 1 (R233). -/
def execDfApplyLp (c : BitVec 8) (x : F64) (s : State) : Result :=
  onChannel s c (fun ch => match ch.filter with
    | .lp r => finishApply s c ch (.lp (lpStep r x).1, (lpStep r x).2)
    | f => finishApply s c ch (dfStep f x))

/-- `DF_APPLY.HP`, the row of KIND = 2 (R234). -/
def execDfApplyHp (c : BitVec 8) (x : F64) (s : State) : Result :=
  onChannel s c (fun ch => match ch.filter with
    | .hp r => finishApply s c ch (.hp (hpStep r x).1, (hpStep r x).2)
    | f => finishApply s c ch (dfStep f x))

/-- `DF_APPLY.MAVG`, the row of KIND = 3 (R235). -/
def execDfApplyMavg (c : BitVec 8) (x : F64) (s : State) : Result :=
  onChannel s c (fun ch => match ch.filter with
    | .mavg r => finishApply s c ch (.mavg (mavgStep r x).1, (mavgStep r x).2)
    | f => finishApply s c ch (dfStep f x))

/-- `DF_APPLY.MEDIAN`, the row of KIND = 4 (R236). -/
def execDfApplyMedian (c : BitVec 8) (x : F64) (s : State) : Result :=
  onChannel s c (fun ch => match ch.filter with
    | .median r => finishApply s c ch (.median (medianStep r x).1, (medianStep r x).2)
    | f => finishApply s c ch (dfStep f x))

/-- `DF_APPLY.NOTCH`, the row of KIND = 5 (R237). -/
def execDfApplyNotch (c : BitVec 8) (x : F64) (s : State) : Result :=
  onChannel s c (fun ch => match ch.filter with
    | .notch r => finishApply s c ch (.notch (notchStep r x).1, (notchStep r x).2)
    | f => finishApply s c ch (dfStep f x))

/-- `DF_APPLY.BIQUAD`, the row of KIND = 6 (R238). -/
def execDfApplyBiquad (c : BitVec 8) (x : F64) (s : State) : Result :=
  onChannel s c (fun ch => match ch.filter with
    | .biquad r => finishApply s c ch (.biquad (biquadStep r x).1, (biquadStep r x).2)
    | f => finishApply s c ch (dfStep f x))

/-- `DF_APPLY.ABS`, the row of KIND = 7 (R239). -/
def execDfApplyAbs (c : BitVec 8) (x : F64) (s : State) : Result :=
  onChannel s c (fun ch => match ch.filter with
    | .abs => finishApply s c ch (.abs, F64.abs x)
    | f => finishApply s c ch (dfStep f x))

/-- `DF_APPLY.SQUARE`, the row of KIND = 8 (R240). -/
def execDfApplySquare (c : BitVec 8) (x : F64) (s : State) : Result :=
  onChannel s c (fun ch => match ch.filter with
    | .square => finishApply s c ch (.square, F64.mul x x)
    | f => finishApply s c ch (dfStep f x))

/-- `DF_APPLY.INTERP`, the row of KIND = 9 (R241). -/
def execDfApplyInterp (c : BitVec 8) (x : F64) (s : State) : Result :=
  onChannel s c (fun ch => match ch.filter with
    | .interp r => finishApply s c ch (.interp (interpStep r x).1, (interpStep r x).2)
    | f => finishApply s c ch (dfStep f x))

/-- `DF_RESET c` (R242). -/
def execDfReset (c : BitVec 8) (s : State) : Result :=
  onChannel s c (fun ch => .next ((s.setFilter c ch ch.filter.reset).answer .none))

/-- `DF_KIND c -> kind` (R243). -/
def execDfKind (c : BitVec 8) (s : State) : Result :=
  onChannel s c (fun ch => .next (s.answer (.kind ch.filter.kind)))

/-- `DF_PARAMS c -> params` (R244). -/
def execDfParams (c : BitVec 8) (s : State) : Result :=
  onChannel s c (fun ch => .next (s.answer (.params ch.filter.params)))

/-- `DF_SELECT c, kind, params` (R245). -/
def execDfSelect (c : BitVec 8) (kind : BitVec 4) (params : List FParam) (s : State) : Result :=
  onChannel s c (fun ch =>
    match createFilter s.cr.wMax kind params with
    | Option.none => .refused .badFilter
    | some f => .next ((s.setFilter c ch f).answer .none))

end Sys2Proof.Machine
end

