-- ==== Sys2Proof/Machine/Resampler.lean ====
section
/-! DEFINITION. Resampler operations (44_resampler.md R280 to R293). -/

namespace Sys2Proof.Machine

/-- `fir(z, j)` (R284): the 65 taps in ascending order, newest sample against `H[0]`, each product and each sum rounded. -/
def fir (h z : List F64) (j : Nat) : F64 :=
  (List.range Config.kernelLength).foldl
    (fun acc k => F64.add acc (F64.mul (h.getD k .zero) (z.getD (j + 64 - k) .zero))) .zero

/-- The last 64 elements of a stream (R287, R288). -/
def lastTail (z : List F64) : List F64 := z.drop (z.length - Config.tailLength)

/-- The zero-stuffed stream: each sample followed by `zeros` zeros (R287). -/
def zeroStuff (zeros : Nat) (x : List F64) : List F64 := x.flatMap (fun v => v :: List.replicate zeros .zero)

/-- `RS_PROCESS.UP` on one channel (R287): `PHASE` is not used. -/
def upsample (h : List F64) (gain : F64) (m : Nat) (r : Resamp) (x : List F64) : Resamp × List F64 :=
  let z := r.tail ++ zeroStuff (m - 1) x
  ({ r with tail := lastTail z }, (List.range (x.length * m)).map (fun j => F64.mul gain (fir h z j)))

/-- The loop of R288 over the positions `j`, `j + 1`, ..., `n` of them: the values kept and the phase after them. -/
def decimate (h z : List F64) (m : Nat) : Nat → Nat → Nat → List F64 × Nat
  | 0, _, phase => ([], phase)
  | n + 1, j, phase =>
      let more := decimate h z m n (j + 1) ((phase + 1) % m)
      (if phase = 0 then fir h z j :: more.1 else more.1, more.2)

/-- `RS_PROCESS.DOWN` on one channel (R288). -/
def downsample (h : List F64) (m : Nat) (r : Resamp) (x : List F64) : Resamp × List F64 :=
  let z := r.tail ++ x
  let out := decimate h z m x.length 0 r.phase
  ({ tail := lastTail z, phase := out.2 }, out.1)

/-- One block through one channel's resampler, the variant the sign of `FACTOR` selects (R285). -/
def rsBlock (t : Tables) (factor : Int) (r : Resamp) (x : List F64) : Resamp × List F64 :=
  if factor = 0 then (r, x)
  else if 0 < factor then upsample (t.kernelOf (ratio factor)) (t.gainOf (ratio factor)) (ratio factor) r x
  else downsample (t.kernelOf (ratio factor)) (ratio factor) r x

/-- The end of an `RS_PROCESS`: the channel's resampler state stored, the output at the result port, unsanitised (42 R220). -/
def finishResample (s : State) (c : BitVec 8) (ch : Channel) (o : Resamp × List F64) : Result :=
  .next ((s.setChan c { ch with rs := o.1 }).answer (.samples o.2))

/-- `RS_PROCESS c, x -> y` (R285). -/
def execRsProcess (c : BitVec 8) (x : List F64) (s : State) : Result :=
  onChannel s c (fun ch => finishResample s c ch (rsBlock s.tables s.factor ch.rs x))

/-- `RS_PROCESS.BYPASS`, the row of FACTOR = 0 (R286). For this and the next two: the suffix does not change the command word
(30_encoding.md R122), so with another factor the word is that of RS_PROCESS and does what RS_PROCESS does (log 14). -/
def execRsProcessBypass (c : BitVec 8) (x : List F64) (s : State) : Result :=
  if s.factor = 0 then onChannel s c (fun ch => finishResample s c ch (ch.rs, x))
  else execRsProcess c x s

/-- `RS_PROCESS.UP`, the row of FACTOR > 0 (R287). -/
def execRsProcessUp (c : BitVec 8) (x : List F64) (s : State) : Result :=
  if 0 < s.factor then
    onChannel s c (fun ch => finishResample s c ch
      (upsample (s.tables.kernelOf (ratio s.factor)) (s.tables.gainOf (ratio s.factor)) (ratio s.factor) ch.rs x))
  else execRsProcess c x s

/-- `RS_PROCESS.DOWN`, the row of FACTOR < 0 (R288). -/
def execRsProcessDown (c : BitVec 8) (x : List F64) (s : State) : Result :=
  if s.factor < 0 then
    onChannel s c (fun ch => finishResample s c ch
      (downsample (s.tables.kernelOf (ratio s.factor)) (ratio s.factor) ch.rs x))
  else execRsProcess c x s

/-- Every channel's tail zero and phase 0 (R291, R292). -/
def resetResamplers (chans : List Channel) : List Channel := chans.map (fun ch => { ch with rs := .reset })

/-- `RS_SET_FACTOR factor` (R291): the value `FACTOR` already has is not a change. -/
def execRsSetFactor (factor : Int) (s : State) : Result :=
  whenReady s (
    if factorLegal factor then
      if factor = s.factor then .next (s.answer .none)
      else .next ({ s with factor := factor, chans := resetResamplers s.chans }.answer .none)
    else .refused .badFactor)

/-- `RS_RESET` (R292). -/
def execRsReset (s : State) : Result :=
  whenReady s (.next ({ s with chans := resetResamplers s.chans }.answer .none))

end Sys2Proof.Machine
end

