-- ==== Sys2Proof/Machine/ChannelStage.lean ====
section
/-! DEFINITION. The channel processing stage (42_channel_stage.md R210 to R220). -/

namespace Sys2Proof.Machine

/-- `cal(c, raw) = (raw * G) + O` (R212), with `G` and `O` of the snapshot. -/
def calibrate (g : ChannelSettings) (raw : F64) : F64 := F64.add (F64.mul raw g.gain) g.offset

/-- The filter part of step 0 (R214): the identity without a filter, else each output sanitised. -/
def stageFilter (f : DFilter) (a : List F64) : DFilter × List F64 :=
  if f.kind = 0 then (f, a) else ((dfBlock f a).1, (dfBlock f a).2.map F64.san)

/-- The resampler part of step 0 (R214): bypassed for `FACTOR` = 0, else each output sanitised. -/
def stageResample (t : Tables) (factor : Int) (r : Resamp) (b : List F64) : Resamp × List F64 :=
  if factor = 0 then (r, b) else ((rsBlock t factor r b).1, (rsBlock t factor r b).2.map F64.san)

/-- Step 0 for one channel (R214): calibration, filter, resampler, `san` after each (R213). -/
def stageChannel (t : Tables) (factor : Int) (ch : Channel) (raw : List F64) : Channel × List F64 :=
  let a := raw.map (fun v => F64.san (calibrate ch.settings v))
  let b := stageFilter ch.filter a
  let out := stageResample t factor ch.rs b.2
  ({ ch with filter := b.1, rs := out.1 }, out.2)

/-- Step 0 for every channel: each with its own samples (R216). -/
def stageAll (t : Tables) (factor : Int) (chans : List Channel) (samples : List (List F64)) :
    List (Channel × List F64) :=
  List.zipWith (stageChannel t factor) chans samples

/-- `out[c]` under its channel index. -/
def indexed (outs : List (List F64)) : List (BitVec 8 × List F64) :=
  outs.mapIdx (fun c out => (BitVec.ofNat 8 c, out))

/-- `CH_SET_CAL c, gain, offset` (R211). -/
def execChSetCal (c : BitVec 8) (gain offset : F64) (s : State) : Result :=
  onChannel s c (fun ch => .next ((s.setChan c { ch with gain := gain, offset := offset }).answer .none))

/-- `CH_PROCESS_BLOCK samples` (R214): step 0, which takes the settings snapshot, computes every channel with it and leaves the
in-flight record, snapshot and result arrays. The commit steps that follow are `commitStep`, in the order the schedule brings
them (R217, log 12). -/
def execChProcessBlock (samples : List (List F64)) (s : State) : Result :=
  whenReady s (
    if samples.length = s.cr.nch ∧ blockRectangular samples = true then
      let outs := stageAll s.tables s.snapshot.factor s.chans samples
      .next ({ s with
        chans := outs.map Prod.fst
        flights := s.flights ++ [Flight.mk s.turn s.snapshot (indexed (outs.map Prod.snd))] }.answer .none)
    else .refused .badBlock)

end Sys2Proof.Machine
end

