-- ==== Sys2Proof/Machine/Token.lean ====
section
/-! DEFINITION. Tokens of the ASCII format: white space, the numeric grammar and its conversion (30_encoding.md R109 to R111). -/

namespace Sys2Proof.Machine

/-- `WS`: space, tab, carriage return, line feed (R109). -/
def isWs (b : Byte) : Bool := b == 0x20 || b == 0x09 || b == 0x0D || b == 0x0A

/-- `trim(t)` (R109): white space removed from both ends. -/
def trim (t : List Byte) : List Byte := ((t.dropWhile isWs).reverse.dropWhile isWs).reverse

/-- An ASCII digit `0`-`9` (R110). -/
def isDigit (b : Byte) : Bool := decide (0x30 ≤ b.toNat) && decide (b.toNat ≤ 0x39)

/-- The number a digit string denotes. -/
def digitsValue (ds : List Byte) : Nat := ds.foldl (fun acc d => acc * 10 + (d.toNat - 0x30)) 0

/-- A numeric token: its sign, its digits as one integer, and the power of ten they are scaled by. -/
structure Decimal where
  neg : Bool
  mant : Nat
  exp : Int
  deriving DecidableEq, Repr

/-- An optional sign `+` or `-`: whether it is `-`, and what follows. -/
def takeSign : List Byte → Bool × List Byte
  | [] => (false, [])
  | b :: rest => if b == 0x2B then (false, rest) else if b == 0x2D then (true, rest) else (false, b :: rest)

/-- An optional `.` with the digits after it: the digits, and what follows. -/
def takeFraction : List Byte → List Byte × List Byte
  | [] => ([], [])
  | b :: rest => if b == 0x2E then (rest.takeWhile isDigit, rest.dropWhile isDigit) else ([], b :: rest)

/-- The exponent part, which must be all that is left: nothing, or `e`/`E`, an optional sign, one or more digits (R110). -/
def exponentOf : List Byte → Option Int
  | [] => some 0
  | b :: rest =>
      if b == 0x65 || b == 0x45 then
        let (neg, ds) := takeSign rest
        if !ds.isEmpty && ds.all isDigit then
          some (if neg then -(digitsValue ds : Int) else digitsValue ds)
        else none
      else none

/-- The numeric token grammar (R110), on a token already trimmed. -/
def parseNumber (t : List Byte) : Option Decimal :=
  let (neg, body) := takeSign t
  let whole := body.takeWhile isDigit
  let (frac, tail) := takeFraction (body.dropWhile isDigit)
  if whole.isEmpty && frac.isEmpty then none
  else (exponentOf tail).map (fun e => ⟨neg, digitsValue (whole ++ frac), e - frac.length⟩)

/-- `num(t)` (R111): the nearest `F64` of a numeric token, +0.0 of any other. -/
def num (t : List Byte) : F64 :=
  match parseNumber (trim t) with
  | none => .zero
  | some d => F64.ofDecimal d.neg d.mant d.exp

end Sys2Proof.Machine
end

