-- ==== Sys2Proof/Machine/FrameParser.lean ====
section
/-! DEFINITION. The FrameParser (41_frameparser.md R170 to R194): the binary and the ASCII decoder and the operation. -/

namespace Sys2Proof.Machine

/-- The least index at which `pat` stands in a byte string, all of it inside the string. -/
def findAt (pat : List Byte) : List Byte → Option Nat
  | [] => if pat.isEmpty then some 0 else none
  | b :: rest => if pat.isPrefixOf (b :: rest) then some 0 else (findAt pat rest).map (· + 1)

/-! ## Binary variant -/

/-- `sum of e[k] * 2^(8*k)`: the first byte least significant (30_encoding.md R106, LITTLE). -/
def littleValue : List Byte → Nat
  | [] => 0
  | b :: rest => b.toNat + 256 * littleValue rest

/-- Assembly of an element's bytes under `ENDIAN` (R106). -/
def assemble (endian : Endian) (e : List Byte) : Nat :=
  match endian with
  | .little => littleValue e
  | .big => littleValue e.reverse

/-- `sext_N`: the two's complement integer of an N-bit value (R105). -/
def signExtend (bits v : Nat) : Int := if v < 2 ^ (bits - 1) then v else (v : Int) - 2 ^ bits

/-- `decodeElem(e)` (R172): assembly, then the "decodes to" column of 30_encoding.md R104 for the type code. -/
def decodeElem (endian : Endian) (etype : BitVec 3) (e : List Byte) : F64 :=
  let v := assemble endian e
  if etype = 0 then F64.ofInt v
  else if etype = 1 then F64.ofInt (signExtend 8 v)
  else if etype = 2 then F64.ofInt v
  else if etype = 3 then F64.ofInt (signExtend 16 v)
  else if etype = 4 then F64.ofInt v
  else if etype = 5 then F64.ofInt (signExtend 32 v)
  else if etype = 6 then F64.ofF32 (BitVec.ofNat 32 v)
  else Config.reservedElem e

/-- The elements of the frame whose marker stands at index `p` of a byte string, channel 0 first (30_encoding.md R101). -/
def decodeFrame (cr : Params) (data : List Byte) (p : Nat) : List F64 :=
  (List.range cr.nch).map (fun c =>
    decodeElem cr.endian cr.etype
      ((data.drop (p + cr.marker.length + c * elemWidth cr.etype)).take (elemWidth cr.etype)))

/-- The loop of R171 on `data[pos ..)`: the frames found and the bytes after the last complete one. `fuel` bounds the passes; each
pass consumes a frame, so the length of the string is enough. -/
def binaryLoop (cr : Params) : Nat → List Byte → List (List F64) × List Byte
  | 0, rest => ([], rest)
  | fuel + 1, rest =>
      match findAt cr.marker rest with
      | none => ([], rest)
      | some p =>
          if rest.length < p + cr.frameBytes then ([], rest)
          else
            let more := binaryLoop cr fuel (rest.drop (p + cr.frameBytes))
            (decodeFrame cr rest p :: more.1, more.2)

/-- `parseBinary(data)` (R171): frames and residue. -/
def parseBinary (cr : Params) (data : List Byte) : List (List F64) × List Byte :=
  binaryLoop cr (data.length + 1) data

/-! ## ASCII variant -/

/-- A line split at every byte equal to `DELIM`: k delimiters give k + 1 tokens (30_encoding.md R108). -/
def splitTokens (delim : Byte) : List Byte → List (List Byte)
  | [] => [[]]
  | b :: rest =>
      if b = delim then [] :: splitTokens delim rest
      else
        match splitTokens delim rest with
        | [] => [[b]]
        | t :: ts => (b :: t) :: ts

/-- A line is blank when every byte is white space and not `DELIM` (R109). -/
def isBlank (delim : Byte) (line : List Byte) : Bool := line.all (fun b => isWs b && b != delim)

/-- The frame of a line that is not blank: missing tokens give +0.0, extra ones are ignored (R112). -/
def lineFrame (cr : Params) (line : List Byte) : List F64 :=
  let tokens := splitTokens cr.delim line
  (List.range cr.nch).map (fun c =>
    match tokens[c]? with
    | some t => num t
    | none => .zero)

/-- The loop of R180 on `data[pos ..)`: the frames of the terminated lines and the bytes after the last terminator. -/
def asciiLoop (cr : Params) : Nat → List Byte → List (List F64) × List Byte
  | 0, rest => ([], rest)
  | fuel + 1, rest =>
      match findAt cr.term rest with
      | none => ([], rest)
      | some t =>
          let line := rest.take t
          let more := asciiLoop cr fuel (rest.drop (t + cr.term.length))
          if isBlank cr.delim line then more else (lineFrame cr line :: more.1, more.2)

/-- `parseAscii(data)` (R180): frames and residue. -/
def parseAscii (cr : Params) (data : List Byte) : List (List F64) × List Byte :=
  asciiLoop cr (data.length + 1) data

/-! ## The operation -/

/-- `capResidue(r)` (R175): the last `RESIDUE_CAP` bytes. -/
def capResidue (cap : Nat) (r : List Byte) : List Byte := r.drop (r.length - cap)

/-- `samples[c] = [frame[c] for frame in frames]` for each channel (R171). -/
def byChannel (nch : Nat) (frames : List (List F64)) : List (List F64) :=
  (List.range nch).map (fun c => frames.map (fun f => f.getD c .zero))

/-- FP_PARSE with a given decoder (R170): a chunk longer than `CHUNK_MAX` is refused, then `fault` is looked at before anything is
decoded (60_exceptions.md R327), and the residue is capped after parsing. -/
def parseWith (decoder : Params → List Byte → List (List F64) × List Byte) (chunk : List Byte) (fault : Bool) (s : State) :
    Result :=
  whenReady s (
    if s.cr.chunkMax < chunk.length then .refused .chunkTooLong
    else if fault then .next (raiseDiscard s)
    else
      let out := decoder s.cr (s.res ++ chunk)
      .next { s with res := capResidue s.cr.residueCap out.2, reply := .parsed (byChannel s.cr.nch out.1) .ok })

/-- The decoder that `MODE` selects (R170). -/
def selectedDecoder (m : Mode) : Params → List Byte → List (List F64) × List Byte :=
  match m with
  | .binary => parseBinary
  | .ascii => parseAscii

/-- `FP_PARSE chunk -> samples, status` (R170). -/
def execFpParse (chunk : List Byte) (fault : Bool) (s : State) : Result :=
  parseWith (selectedDecoder s.cr.mode) chunk fault s

/-- `FP_PARSE.BIN`, the row of MODE = BINARY (R171). The suffix does not change the command word (30_encoding.md R122): with
another mode the word is that of FP_PARSE and does what FP_PARSE does (log 14). -/
def execFpParseBin (chunk : List Byte) (fault : Bool) (s : State) : Result :=
  match s.cr.mode with
  | .binary => parseWith parseBinary chunk fault s
  | .ascii => execFpParse chunk fault s

/-- `FP_PARSE.ASCII`, the row of MODE = ASCII (R180); in the other mode as FP_PARSE (R122, log 14). -/
def execFpParseAscii (chunk : List Byte) (fault : Bool) (s : State) : Result :=
  match s.cr.mode with
  | .ascii => parseWith parseAscii chunk fault s
  | .binary => execFpParse chunk fault s

end Sys2Proof.Machine
end

