-- ==== Sys2Proof/Machine/RingBuffer.lean ====
section
/-! DEFINITION. RingBuffer operations (40_ringbuffer.md R140 to R151). -/

namespace Sys2Proof.Machine

/-- Store a new RingBuffer in channel `c`. -/
def State.setRing (s : State) (c : BitVec 8) (ch : Channel) (r : Ring) : State :=
  s.setChan c { ch with ring := r }

/-- `RB_ADD c, value` (R141). -/
def execRbAdd (c : BitVec 8) (value : F64) (s : State) : Result :=
  onChannel s c (fun ch =>
    match ch.ring.append (s.cap c) [value] with
    | Option.none => .refused .totalOverflow
    | some r => .next ((s.setRing c ch r).answer .none))

/-- `RB_ADD_RANGE c, values` (R142). -/
def execRbAddRange (c : BitVec 8) (values : List F64) (s : State) : Result :=
  onChannel s c (fun ch =>
    match ch.ring.append (s.cap c) values with
    | Option.none => .refused .totalOverflow
    | some r => .next ((s.setRing c ch r).answer .none))

/-- `RB_COPY_LATEST c, n -> k, dest` (R143): `dest[0..k)` is written, `dest[k..)` is not. -/
def execRbCopyLatest (c : BitVec 8) (n : BitVec 32) (dest : List F64) (s : State) : Result :=
  onChannel s c (fun ch =>
    let k := min n.toNat ch.ring.count
    if dest.length < k then .refused .destinationTooShort
    else .next (s.answer (.copied k (ch.ring.latest (s.cap c) k ++ dest.drop k))))

/-- `RB_NEW_DATA_SINCE c, cursor -> seq, cursor'` (R144). -/
def execRbNewDataSince (c : BitVec 8) (cursor : BitVec 64) (s : State) : Result :=
  onChannel s c (fun ch => .next (s.answer (.fresh (ch.ring.since (s.cap c) cursor) ch.ring.total)))

/-- `RB_CLEAR c` (R145). -/
def execRbClear (c : BitVec 8) (s : State) : Result :=
  onChannel s c (fun ch => .next ((s.setRing c ch ch.ring.clear).answer .none))

/-- `RB_CAPACITY c -> C` (R146). -/
def execRbCapacity (c : BitVec 8) (s : State) : Result :=
  onChannel s c (fun _ => .next (s.answer (.capacity (s.cap c))))

/-- `RB_COUNT c -> COUNT[c]` (R147). -/
def execRbCount (c : BitVec 8) (s : State) : Result :=
  onChannel s c (fun ch => .next (s.answer (.count ch.ring.count)))

end Sys2Proof.Machine
end

