-- ==== Sys2Proof/Machine/System.lean ====
section
/-! DEFINITION. SYS_RESET (70_reset_and_hazards.md R350). -/

namespace Sys2Proof.Machine

/-- Every state element at its reset value for construction parameters `p` (10_state.md R33): CR0 to CR10 written, every other
element reset, a block in flight dropped. The configuration tables and the schedule are not state elements and stay. -/
def State.construct (s : State) (p : Params) : State :=
  { s with
    ready := true
    cr := p
    res := []
    chans := p.caps.map Channel.reset
    factor := 0
    flights := []
    reply := .none }

/-- `SYS_RESET params` (R350): the one operation that is not refused before the first SYS_RESET (R352). -/
def execSysReset (p : Params) (s : State) : Result :=
  if p.legal then .next (s.construct p) else .refused .badConstruction

end Sys2Proof.Machine
end

