-- ==== Sys2Proof/Machine/Dispatch.lean ====
section
/-! DEFINITION. One arm per operation of spec/opcode_table.json, in the table's order. -/

namespace Sys2Proof.Machine

def exec (i : Instr) (s : State) : Host.Outcome State Fault Refusal :=
  match i with
  | .sysReset p => Sys2Proof.Machine.execSysReset p s
  | .rbAdd c v => Sys2Proof.Machine.execRbAdd c v s
  | .rbAddRange c vs => Sys2Proof.Machine.execRbAddRange c vs s
  | .rbCopyLatest c n dest => Sys2Proof.Machine.execRbCopyLatest c n dest s
  | .rbNewDataSince c q => Sys2Proof.Machine.execRbNewDataSince c q s
  | .rbClear c => Sys2Proof.Machine.execRbClear c s
  | .rbCapacity c => Sys2Proof.Machine.execRbCapacity c s
  | .rbCount c => Sys2Proof.Machine.execRbCount c s
  | .fpParse chunk fault => Sys2Proof.Machine.execFpParse chunk fault s
  | .fpParseBin chunk fault => Sys2Proof.Machine.execFpParseBin chunk fault s
  | .fpParseAscii chunk fault => Sys2Proof.Machine.execFpParseAscii chunk fault s
  | .chProcessBlock samples => Sys2Proof.Machine.execChProcessBlock samples s
  | .chSetCal c gain offset => Sys2Proof.Machine.execChSetCal c gain offset s
  | .dfApply c x => Sys2Proof.Machine.execDfApply c x s
  | .dfApplyNone c x => Sys2Proof.Machine.execDfApplyNone c x s
  | .dfApplyLp c x => Sys2Proof.Machine.execDfApplyLp c x s
  | .dfApplyHp c x => Sys2Proof.Machine.execDfApplyHp c x s
  | .dfApplyMavg c x => Sys2Proof.Machine.execDfApplyMavg c x s
  | .dfApplyMedian c x => Sys2Proof.Machine.execDfApplyMedian c x s
  | .dfApplyNotch c x => Sys2Proof.Machine.execDfApplyNotch c x s
  | .dfApplyBiquad c x => Sys2Proof.Machine.execDfApplyBiquad c x s
  | .dfApplyAbs c x => Sys2Proof.Machine.execDfApplyAbs c x s
  | .dfApplySquare c x => Sys2Proof.Machine.execDfApplySquare c x s
  | .dfApplyInterp c x => Sys2Proof.Machine.execDfApplyInterp c x s
  | .dfReset c => Sys2Proof.Machine.execDfReset c s
  | .dfKind c => Sys2Proof.Machine.execDfKind c s
  | .dfParams c => Sys2Proof.Machine.execDfParams c s
  | .dfSelect c kind params => Sys2Proof.Machine.execDfSelect c kind params s
  | .rsProcess c x => Sys2Proof.Machine.execRsProcess c x s
  | .rsProcessBypass c x => Sys2Proof.Machine.execRsProcessBypass c x s
  | .rsProcessUp c x => Sys2Proof.Machine.execRsProcessUp c x s
  | .rsProcessDown c x => Sys2Proof.Machine.execRsProcessDown c x s
  | .rsSetFactor factor => Sys2Proof.Machine.execRsSetFactor factor s
  | .rsReset => Sys2Proof.Machine.execRsReset s

end Sys2Proof.Machine
end

