-- ==== Sys2Proof/Machine/Schedule.lean ====
section
/-! DEFINITION. The schedule: performing its next event (20_memory.md R82), and presenting a bare command word. -/

namespace Sys2Proof.Machine

/-- The refusal of a command that names no operation (30_encoding.md R118). -/
def Refusal.ofDecode : DecodeError → Refusal
  | .reservedOp => .reservedOp
  | .channelNotZero => .channelNotZero
  | .wrongOperands => .wrongOperands

/-- Agent `agent` performs the operation a command names, in a state whose schedule is already past it. -/
def performCommand (agent : Nat) (cmd : Command) (s : State) : Result :=
  match decode cmd with
  | .error e => .refused (Refusal.ofDecode e)
  | .ok i => exec i { s with turn := agent }

/-- The next event, `rest` being the schedule after it. An operation of an agent whose block is still committing waits: the
block makes its next commit step and the event stays (42_channel_stage.md R217). -/
def performEvent (e : Event) (rest : List Event) (s : State) : Result :=
  match e with
  | .commit agent chan => commitStep { s with inbox := rest } agent chan
  | .issue agent cmd =>
      match nextPending agent s.inFlight with
      | some c => commitStep s agent c
      | Option.none => performCommand agent cmd { s with inbox := rest }

/-- `s` with a command word presented as the next event, by the agent whose turn it last was, with its plain operands (log 15).
An operation waits while a block of its agent is in flight, so that agent's records go. -/
def presentWord (s : State) (word : BitVec 16) : State :=
  { s with
    inbox := .issue s.turn (plainCommand word) :: s.inbox
    flights := s.flights.filter (fun f => f.agent != s.turn) }

end Sys2Proof.Machine
end

