-- ==== Sys2Proof/Machine/Step.lean ====
section
/-! DEFINITION. One step of the machine: the next event of the schedule (20_memory.md R82). -/

namespace Sys2Proof.Machine

/-- One atomic transition (R80): the next event, or with none left a commit step of a block in flight. -/
def step (s : State) : Host.Outcome State Fault Refusal :=
  match s.inbox with
  | [] => drainStep s
  | e :: rest => performEvent e rest s

/-- `s` with a bare command word presented as the next event. A word that the one command format cannot hold (over 16 bits)
presents nothing. -/
def State.withFetchWord (s : State) (nbits w : Nat) : State :=
  match tableWord nbits w with
  | Option.none => s
  | some word => presentWord s word

end Sys2Proof.Machine
end

