-- ==== Sys2Proof/Safety.lean ====
section
/-! DEFINITION. What every reachable state satisfies (10_state.md R26, R28, R29, R21; 42_channel_stage.md R218), and runs of
operations, in the terms the claims use. No operation of this block stops with a fault, so a run is safe when its states are well
formed. -/

namespace Sys2Proof.Machine

/-- The canonical form of a RingBuffer of capacity `cap` (R26): the counters in range, and exactly the `COUNT` indices before
`HEAD` (modulo the capacity) hold values. -/
def Ring.wf (cap : Nat) (r : Ring) : Bool :=
  decide (r.buf.length = cap) && decide (r.head < cap) && decide (r.count ≤ cap) && decide (r.count ≤ r.total.toNat)
    && (List.range cap).all (fun i =>
      (r.buf.getD i none).isSome == decide ((i + cap + r.count - r.head) % cap < r.count))

/-- A filter window (R28): `W` elements, of which the first `N` hold values; until it is full the next one written is the first
that holds none. -/
def windowWf (w : Nat) (win : List (Option F64)) (idx n : Nat) : Bool :=
  decide (win.length = w) && decide (idx < w) && decide (n ≤ w) && (decide (n = w) || decide (idx = n))
    && (List.range w).all (fun i => (win.getD i none).isSome == decide (i < n))

/-- The working registers of a filter instance are in the ranges of R28, and a notch's coefficients are those of its parameters. -/
def DFilter.registersWf : DFilter → Bool
  | .mavg r => windowWf r.w r.win r.idx r.n
  | .median r => windowWf r.w r.win r.idx r.n
  | .notch r => decide ((r.c1, r.c2, r.c3) = notchCoef r.f0 r.fs r.bw)
  | .interp r => decide (r.k < r.ndec) && (r.primed || decide (r.k = 0))
  | .none | .lp _ | .hp _ | .biquad _ | .abs | .square => true

/-- A filter instance with legal parameters (43_digitalfilter.md R246) and registers in range. -/
def DFilter.wf (wMax : Nat) (f : DFilter) : Bool := filterLegal wMax f.kind f.params && f.registersWf

/-- `TAIL` has 64 elements and `PHASE` is below `M` (R29). -/
def Resamp.wf (factor : Int) (r : Resamp) : Bool :=
  decide (r.tail.length = Config.tailLength) && decide (r.phase < ratio factor)

/-- One channel of capacity `cap`. -/
def Channel.wf (wMax : Nat) (factor : Int) (cap : Nat) (ch : Channel) : Bool :=
  ch.ring.wf cap && ch.filter.wf wMax && ch.rs.wf factor

/-- A settings snapshot of an instance constructed with `cr` (10_state.md R30): a legal filter for each channel, a legal factor. -/
def Snapshot.wf (cr : Params) (g : Snapshot) : Bool :=
  decide (g.channels.length = cr.nch) && g.channels.all (fun c => filterLegal cr.wMax c.kind c.params) && factorLegal g.factor

/-- An in-flight record (42_channel_stage.md R214, R218): a snapshot, something left to commit, each channel at most once and
below `NCH`, and every value to be committed finite. -/
def Flight.wf (cr : Params) (f : Flight) : Bool :=
  f.snapshot.wf cr && !f.pending.isEmpty && decide (f.pending.map Prod.fst).Nodup
    && f.pending.all (fun p => decide (p.1.toNat < cr.nch) && p.2.all F64.isFinite)

/-- Nine kernels of 65 finite taps and nine gains (44_resampler.md R282, R287). -/
def Tables.wf (t : Tables) : Bool :=
  decide (t.kernel.length = 9) && t.kernel.all (fun h => decide (h.length = Config.kernelLength) && h.all F64.isFinite)
    && decide (t.upGain.length = 9)

/-- What holds of an instance after its first `SYS_RESET`. -/
def State.instanceWf (s : State) : Bool :=
  s.cr.legal && decide (s.res.length ≤ s.cr.residueCap) && factorLegal s.factor
    && decide (s.chans.length = s.cr.nch)
    && (List.zip s.cr.caps s.chans).all (fun p => p.2.wf s.cr.wMax s.factor p.1)
    && decide (s.flights.map Flight.agent).Nodup && s.flights.all (Flight.wf s.cr)

/-- The invariant: the configuration tables have their shape, and the instance, once there is one, is well formed. Before the
first `SYS_RESET` nothing is required of it (R352). -/
def State.wf (s : State) : Bool := s.tables.wf && (!s.ready || s.instanceWf)

/-- Operations performed one after another, each from the state the one before it left. -/
def execAll : List Instr → State → Result
  | [], s => .next s
  | i :: rest, s =>
      match exec i s with
      | .next t => execAll rest t
      | .fault r => .fault r
      | .refused r => .refused r

/-- `n` steps, one after another. -/
def runSteps : Nat → State → Result
  | 0, s => .next s
  | n + 1, s =>
      match step s with
      | .next t => runSteps n t
      | .fault r => .fault r
      | .refused r => .refused r

/-- The channel an operation names in its command word (30_encoding.md R117); none for the operations without a channel. -/
def channelOf : Instr → Option (BitVec 8)
  | .rbAdd c _ | .rbAddRange c _ | .rbCopyLatest c _ _ | .rbNewDataSince c _ | .rbClear c | .rbCapacity c | .rbCount c
  | .chSetCal c _ _ | .dfApply c _ | .dfApplyNone c _ | .dfApplyLp c _ | .dfApplyHp c _ | .dfApplyMavg c _
  | .dfApplyMedian c _ | .dfApplyNotch c _ | .dfApplyBiquad c _ | .dfApplyAbs c _ | .dfApplySquare c _
  | .dfApplyInterp c _ | .dfReset c | .dfKind c | .dfParams c | .dfSelect c _ _ | .rsProcess c _
  | .rsProcessBypass c _ | .rsProcessUp c _ | .rsProcessDown c _ => some c
  | .sysReset _ | .fpParse _ _ | .fpParseBin _ _ | .fpParseAscii _ _ | .chProcessBlock _ | .rsSetFactor _
  | .rsReset => none

/-- The operation is `SYS_RESET`. -/
def isSysReset (i : Instr) : Bool := match i with | .sysReset _ => true | _ => false

/-- `FP_PARSE` and its variants, which write `RES` (10_state.md R21). -/
def writesResidue (i : Instr) : Bool := match i.base with | .fpParse _ _ => true | _ => false

/-- The operations that write a RingBuffer in their own step (10_state.md R32). -/
def writesRing (i : Instr) : Bool :=
  match i.base with | .rbAdd _ _ | .rbAddRange _ _ | .rbClear _ => true | _ => false

/-- The operation that writes `GAIN` and `OFFSET` (R27). -/
def writesCalibration (i : Instr) : Bool := match i with | .chSetCal _ _ _ => true | _ => false

/-- The operations that write a filter instance (R23, R28, 42_channel_stage.md R214). -/
def writesFilter (i : Instr) : Bool :=
  match i.base with | .dfApply _ _ | .dfReset _ | .dfSelect _ _ _ | .chProcessBlock _ => true | _ => false

/-- The operations that write `TAIL` or `PHASE` (R32, R214). -/
def writesResampler (i : Instr) : Bool :=
  match i.base with | .rsProcess _ _ | .rsSetFactor _ | .rsReset | .chProcessBlock _ => true | _ => false

/-- The operation that writes `FACTOR` (R29). -/
def writesFactor (i : Instr) : Bool := match i with | .rsSetFactor _ => true | _ => false

/-- The operation that leaves an in-flight record (R30). -/
def writesFlights (i : Instr) : Bool := match i with | .chProcessBlock _ => true | _ => false

/-- Writes to one RingBuffer: a value stands for an `RB_ADD`, an array for an `RB_ADD_RANGE`. -/
def writeOps (c : BitVec 8) (ws : List (F64 ⊕ List F64)) : List Instr :=
  ws.map (Sum.elim (Instr.rbAdd c) (Instr.rbAddRange c))

/-- The values those writes append, in order. -/
def writtenValues (ws : List (F64 ⊕ List F64)) : List F64 := ws.flatMap (Sum.elim (fun v => [v]) id)

/-- A RingBuffer value of `t` was there in `s`, at the same place, or is finite (42_channel_stage.md R218). -/
abbrev onlyFiniteWritten (s t : State) : Prop :=
  ∀ (d : BitVec 8) (ch' : Channel) (i : Nat) (v : F64), t.chan? d = some ch' → ch'.ring.buf[i]? = some (some v) →
    v.isFinite = true ∨ ∃ ch, s.chan? d = some ch ∧ ch.ring.buf[i]? = some (some v)

/-- Where a block's next commit to channel `c` stands: `f` is the first record of agent `a`, and of what it has left to commit `(c, values)`
is the first entry for `c` (10_state.md R30, 42_channel_stage.md R214). -/
structure PendingAt (flights before : List Flight) (f : Flight) (after : List Flight) (a : Nat)
    (pre : List (BitVec 8 × List F64)) (c : BitVec 8) (values : List F64) (post : List (BitVec 8 × List F64)) : Prop where
  record : flights = before ++ f :: after
  first : ∀ g ∈ before, g.agent ≠ a
  agent : f.agent = a
  entry : f.pending = pre ++ (c, values) :: post
  fresh : ∀ p ∈ pre, p.1 ≠ c

/-- The records after that commit: the entry is gone, and a record with nothing left is dropped (R214). -/
def afterCommit (before : List Flight) (f : Flight) (after : List Flight) (pre post : List (BitVec 8 × List F64)) : List Flight :=
  if pre ++ post = [] then before ++ after else before ++ { f with pending := pre ++ post } :: after

/-- The least magnitude that rounds to an infinity, in units of 2^-1074: half way from the largest finite number,
(2^53 - 1) * 2^971, to 2^1024. -/
def overflowUnits : Nat := (2 ^ 54 - 1) * 2 ^ 2044

/-- The sample is the binary64 number nearest to `num / den` units of 2^-1074 with a sign, ties to even (00_scope.md R8, 30_encoding.md
R111): no finite magnitude `k` is nearer, and one as near leaves an even last bit here; from `overflowUnits` on, the infinity. -/
def isNearest (neg : Bool) (num den : Nat) : F64 → Prop
  | .finite sign m =>
      sign = neg ∧ num < den * overflowUnits ∧
      ∀ k : Fin infMag,
        ((num : Int) - F64.magUnits m.val * den).natAbs ≤ ((num : Int) - F64.magUnits k.val * den).natAbs ∧
        (((num : Int) - F64.magUnits m.val * den).natAbs = ((num : Int) - F64.magUnits k.val * den).natAbs →
          k = m ∨ m.val % 2 = 0)
  | .inf sign => sign = neg ∧ den * overflowUnits ≤ num
  | .nan _ => False

/-- A numeric token by its parts (30_encoding.md R110). In a sign, `true` is `-` and `false` is `+`; the exponent is its letter (`true` is
`E`), its sign and its digits. -/
structure Numeral where
  sign : Option Bool
  whole : List (Fin 10)
  point : Bool
  frac : List (Fin 10)
  expo : Option (Bool × Option Bool × List (Fin 10))
  deriving DecidableEq, Repr

/-- A digit before or after the point, digits after it only where it stands, a digit in the exponent (R110). -/
def Numeral.wf (x : Numeral) : Bool :=
  (!x.whole.isEmpty || !x.frac.isEmpty) && (x.point || x.frac.isEmpty) && x.expo.all (fun e => !e.2.2.isEmpty)

/-- The bytes of a sign. -/
def signBytes : Option Bool → List Byte
  | none => []
  | some false => [0x2B]
  | some true => [0x2D]

/-- The ASCII bytes of a digit string. -/
def digitBytes (ds : List (Fin 10)) : List Byte := ds.map (fun d => BitVec.ofNat 8 (0x30 + d.val))

/-- The number a digit string denotes. -/
def decimalValue (ds : List (Fin 10)) : Nat := ds.foldl (fun n d => 10 * n + d.val) 0

/-- The token as it is written. -/
def Numeral.bytes (x : Numeral) : List Byte :=
  signBytes x.sign ++ digitBytes x.whole ++ (if x.point then [0x2E] else []) ++ digitBytes x.frac ++
    (match x.expo with
      | none => []
      | some (upper, sign, ds) => (if upper then 0x45 else 0x65) :: (signBytes sign ++ digitBytes ds))

/-- The power of ten that scales its digits, taken as one integer. -/
def Numeral.scale (x : Numeral) : Int :=
  (match x.expo with
    | none => 0
    | some (_, sign, ds) => if sign = some true then -(decimalValue ds : Int) else decimalValue ds) - x.frac.length

/-- The sample is nearest to the value the token denotes, with the token's sign (R111). -/
def Numeral.denotes (x : Numeral) (v : F64) : Prop :=
  isNearest (decide (x.sign = some true)) (decimalValue (x.whole ++ x.frac) * 10 ^ x.scale.toNat * 2 ^ 1074)
    (10 ^ (-x.scale).toNat) v

/-- The byte string `pat` stands at index `i` of `data`. -/
abbrev standsAt (pat : List Byte) (data : List Byte) (i : Nat) : Prop := (data.drop i).take pat.length = pat

/-- The terminated lines of a byte string and what follows the last terminator (41_frameparser.md R180). -/
def linesOf (term : List Byte) : Nat → List Byte → List (List Byte) × List Byte
  | 0, rest => ([], rest)
  | fuel + 1, rest =>
      match findAt term rest with
      | Option.none => ([], rest)
      | some t =>
          let more := linesOf term fuel (rest.drop (t + term.length))
          (rest.take t :: more.1, more.2)

end Sys2Proof.Machine
end

