-- ==== Sys2Proof/Certificates/Slice0/Obligations.lean ====
section
/-! DEFINITION. The statements for the provers. Each docstring names the rules of spec/ it formalises, and the log entry where a
clause rests on a choice of the model. -/

section Statements

open Sys2Proof Sys2Proof.Machine

/-! ## The machine -/

/-- 70_reset_and_hazards.md R350 with 10_state.md R33: SYS_RESET with legal parameters completes and gives every state element
its reset value; with illegal ones it is refused. That the schedule, the turn and the configuration tables, none of them a state
element of the spec, stay as they are and the result port is emptied is the model's choice (log 24). -/
def Obligations.SysResetConstructs : Prop :=
  ∀ (s : State) (p : Params),
    (encode (.sysReset p)).word = 0x0000#16 ∧
    (p.legal = false → exec (.sysReset p) s = .refused .badConstruction) ∧
    (p.legal = true → ∃ t, exec (.sysReset p) s = .next t ∧
      t.ready = true ∧ t.cr = p ∧ t.res = [] ∧ t.factor = 0 ∧ t.flights = [] ∧ t.reply = .none ∧
      t.tables = s.tables ∧ t.inbox = s.inbox ∧ t.turn = s.turn ∧ t.chans.length = p.nch ∧
      ∀ (c : Nat) (cap : Nat), p.caps[c]? = some cap →
        t.chans[c]? = some
          { ring := { buf := List.replicate cap none, head := 0, count := 0, total := 0 }
            gain := .one
            offset := .zero
            filter := .none
            rs := { tail := List.replicate 64 .zero, phase := 0 } })

/-- 00_scope.md R5, R6, 10_state.md R22 and 60_exceptions.md R325 (a): which construction parameters are legal. The mode decides only
the least RESIDUE_CAP; the registers it does not read are in range too (log 17). -/
def Obligations.LegalConstruction : Prop :=
  ∀ p : Params, p.legal = true ↔
    (1 ≤ p.nch ∧ p.nch ≤ 256 ∧ p.caps.length = p.nch ∧ (∀ cap ∈ p.caps, 1 ≤ cap) ∧ 1 ≤ p.chunkMax ∧ 1 ≤ p.wMax ∧
      1 ≤ p.marker.length ∧ p.marker.length ≤ 8 ∧ p.etype ≠ 7 ∧
      1 ≤ p.term.length ∧ p.term.length ≤ 2 ∧ p.delim ∉ p.term ∧
      (p.mode = .binary → p.marker.length + p.nch * elemWidth p.etype ≤ p.residueCap) ∧
      (p.mode = .ascii → 1 ≤ p.residueCap))

/-- 70_reset_and_hazards.md R352, 60_exceptions.md R325 (i): before the first SYS_RESET every other operation is refused, by `exec`
and by a step, and a step performs a SYS_RESET with legal parameters, whatever else the state holds. That a commit event is dropped
there and an empty schedule waits is the model's choice (logs 12 and 13). -/
def Obligations.RefusedBeforeReset : Prop :=
  ∀ s : State, s.ready = false →
    (∀ i : Instr, (∀ p, i ≠ .sysReset p) → exec i s = .refused .notReset) ∧
    (∀ agent cmd rest i, s.inbox = .issue agent cmd :: rest → decode cmd = .ok i → (∀ p, i ≠ .sysReset p) →
      step s = .refused .notReset) ∧
    (∀ agent cmd rest p, s.inbox = .issue agent cmd :: rest → decode cmd = .ok (.sysReset p) → p.legal = true →
      ∃ t, step s = .next t ∧ t.ready = true ∧ t.cr = p ∧ t.res = [] ∧ t.chans = p.caps.map Channel.reset ∧ t.factor = 0 ∧
        t.flights = [] ∧ t.inbox = rest) ∧
    (∀ agent c rest, s.inbox = .commit agent c :: rest → step s = .next { s with inbox := rest }) ∧
    (s.inbox = [] → step s = .next s)

/-- The machine right after reset satisfies the invariant of Safety.lean, whatever the ranges of log 2's choice. -/
def Obligations.ResetIsWellFormed : Prop := State.reset.wf = true

/-- Every step keeps the invariant: RingBuffers in canonical form, residue bounded, filter and resampler registers in range, factor
and parameters legal, in-flight snapshots legal, in-flight arrays finite and addressed to channels that exist (10_state.md R21, R26, R28,
R29, R30). -/
def Obligations.StepKeepsWellFormed : Prop :=
  ∀ s t : State, s.wf = true → step s = .next t → t.wf = true

/-- A step runs the decoded operation. The event leaves the schedule, its agent has the turn, and `exec` of the operation follows;
a command that names no operation is refused (30_encoding.md R118). The agent has no block in flight (the other case is
`CommitStepAppends`): so it is before the first SYS_RESET and where no record is the agent's (log 12). With no event and no block in flight the machine waits (70_reset_and_hazards.md R352, logs 1 and 13). -/
def Obligations.StepRunsDecoded : Prop :=
  (∀ (s : State) (agent : Nat) (cmd : Command) (rest : List Event) (i : Instr),
    s.inbox = .issue agent cmd :: rest → nextPending agent s.inFlight = none → decode cmd = .ok i →
    step s = exec i { s with inbox := rest, turn := agent }) ∧
  (∀ (s : State) (agent : Nat) (cmd : Command) (rest : List Event) (e : DecodeError),
    s.inbox = .issue agent cmd :: rest → nextPending agent s.inFlight = none → decode cmd = .error e →
    step s = .refused (Refusal.ofDecode e)) ∧
  (∀ (s : State) (agent : Nat), s.ready = false ∨ (∀ f ∈ s.flights, f.agent ≠ agent) → nextPending agent s.inFlight = none) ∧
  (∀ s : State, s.inbox = [] → s.inFlight = [] → step s = .next s)

/-! ## Encoding -/

/-- 30_encoding.md R116 to R118: the decoder reads every encoded operation back, a variant row as the base row whose word it
carries (log 14), and no command but the encoder's decodes to an operation. -/
def Obligations.DecodeEncodeAgree : Prop :=
  (∀ i : Instr, decode (encode i) = .ok i.base) ∧
  (∀ (cmd : Command) (i : Instr), decode cmd = .ok i → encode i = cmd ∧ i.base = i)

/-- 30_encoding.md R118: a reserved `op` names no operation, and neither does a non-zero `chan` on an operation without one. -/
def Obligations.ReservedWordsRejected : Prop :=
  ∀ cmd : Command,
    ((cmd.word.extractLsb' 8 8).toNat ∉
        [0x00, 0x10, 0x11, 0x12, 0x13, 0x14, 0x15, 0x16, 0x20, 0x30, 0x31, 0x40, 0x41, 0x42, 0x43, 0x44, 0x50, 0x51, 0x52] →
      decode cmd = .error .reservedOp) ∧
    ((cmd.word.extractLsb' 8 8).toNat ∈ [0x00, 0x20, 0x30, 0x51, 0x52] → cmd.word.extractLsb' 0 8 ≠ 0 →
      decode cmd = .error .channelNotZero ∨ decode cmd = .error .wrongOperands)

/-- 30_encoding.md R117: words written out bit by bit decode to the operations of the map. -/
def Obligations.WrittenWordsDecode : Prop :=
  decode ⟨0b0001000000000010, .value .one⟩ = .ok (.rbAdd 2 .one) ∧
  decode ⟨0b0010000000000000, .chunk [0xAA] false⟩ = .ok (.fpParse [0xAA] false) ∧
  decode ⟨0b0011000100000001, .calibration .one .zero⟩ = .ok (.chSetCal 1 .one .zero) ∧
  decode ⟨0b0100010000000001, .selection 3 [.int 4]⟩ = .ok (.dfSelect 1 3 [.int 4]) ∧
  decode ⟨0b0101000100000000, .factor (-2)⟩ = .ok (.rsSetFactor (-2)) ∧
  decode ⟨0b0110000000000000, .none⟩ = .error .reservedOp

/-- 30_encoding.md R118, R122 (log 14): a variant row's operation does what its word, the base row's, does. That the two give the same
open values is the model's choice (logs 6 to 9). -/
def Obligations.VariantDoesAsBase : Prop :=
  ∀ (i : Instr) (s : State), exec i s = exec i.base s

/-! ## What operations may touch -/

/-- 30_encoding.md R118, 60_exceptions.md R325 (b): an operation on `chan >= NCH` is refused; below `NCH` the channel is the one of
that index. -/
def Obligations.AbsentChannelRefused : Prop :=
  (∀ (s : State) (i : Instr) (c : BitVec 8), channelOf i = some c → s.ready = true → s.cr.nch ≤ c.toNat →
    exec i s = .refused .noSuchChannel) ∧
  (∀ (s : State) (c : BitVec 8), s.chan? c = if c.toNat < s.cr.nch then s.chans[c.toNat]? else none)

/-- 40_ringbuffer.md R140, 43_digitalfilter.md R230 and R247, 44_resampler.md R280: an operation on a channel touches that channel
and its own results, nothing else. -/
def Obligations.ChannelOperationsAreLocal : Prop :=
  ∀ (s t : State) (i : Instr) (c : BitVec 8), channelOf i = some c → exec i s = .next t →
    t = { s with chans := t.chans, reply := t.reply } ∧ t.chans.length = s.chans.length ∧
    ∀ d : BitVec 8, d ≠ c → t.chan? d = s.chan? d

/-- 10_state.md R21, R22, R27 to R29, R32, 41_frameparser.md R194, 42_channel_stage.md R215, 70_reset_and_hazards.md R351: each
piece of state is written only by the operations named for it, SYS_RESET apart. -/
def Obligations.OnlyNamedOperationsWrite : Prop :=
  ∀ (s t : State) (i : Instr), isSysReset i = false → exec i s = .next t →
    t.ready = s.ready ∧ t.cr = s.cr ∧ t.tables = s.tables ∧ t.inbox = s.inbox ∧ t.turn = s.turn ∧
    (writesResidue i = false → t.res = s.res) ∧
    (writesFactor i = false → t.factor = s.factor) ∧
    (writesFlights i = false → t.flights = s.flights) ∧
    ∀ (d : BitVec 8) (ch : Channel), s.chan? d = some ch → ∃ ch', t.chan? d = some ch' ∧
      (writesRing i = false → ch'.ring = ch.ring) ∧
      (writesCalibration i = false → ch'.gain = ch.gain ∧ ch'.offset = ch.offset) ∧
      (writesFilter i = false → ch'.filter = ch.filter) ∧
      (writesResampler i = false → ch'.rs = ch.rs)

/-- 60_exceptions.md R331: no step but that of a SYS_RESET makes a total-written counter smaller. -/
def Obligations.TotalNeverFalls : Prop :=
  ∀ s t : State, step s = .next t →
    (∀ agent cmd rest p, s.inbox = .issue agent cmd :: rest → decode cmd ≠ .ok (.sysReset p)) →
    ∀ (d : BitVec 8) (ch : Channel), s.chan? d = some ch →
      ∃ ch', t.chan? d = some ch' ∧ ch.ring.total.toNat ≤ ch'.ring.total.toNat

/-! ## RingBuffer -/

/-- 40_ringbuffer.md R141: RB_ADD performs the four assignments and changes nothing else. -/
def Obligations.RbAddAppends : Prop :=
  ∀ (s : State) (c : BitVec 8) (ch : Channel) (v : F64),
    (encode (.rbAdd c v)).word = 0x10#8 ++ c ∧
    (s.ready = true → s.chan? c = some ch → ch.ring.total.toNat + 1 < 2 ^ 64 →
      exec (.rbAdd c v) s = .next
        { s with
          chans := s.chans.set c.toNat
            { ch with
              ring :=
                { buf := ch.ring.buf.set ch.ring.head (some v)
                  head := (ch.ring.head + 1) % s.cap c
                  count := min (ch.ring.count + 1) (s.cap c)
                  total := ch.ring.total + 1 } }
          reply := .none })

/-- 40_ringbuffer.md R142: RB_ADD_RANGE is one step with the effect of an RB_ADD per value, in order. -/
def Obligations.RbAddRangeIsRepeatedAdd : Prop :=
  ∀ (s : State) (c : BitVec 8) (ch : Channel) (vs : List F64),
    (encode (.rbAddRange c vs)).word = 0x11#8 ++ c ∧
    (s.ready = true → s.chan? c = some ch → ch.ring.total.toNat + vs.length < 2 ^ 64 →
      ∃ t, execAll (vs.map (Instr.rbAdd c)) s = .next t ∧
        exec (.rbAddRange c vs) s = .next { t with reply := .none } ∧
        ∃ ch', t.chan? c = some ch' ∧ ch'.ring.total.toNat = ch.ring.total.toNat + vs.length ∧
          ch' = { ch with ring := ch'.ring } ∧ t = { s with chans := s.chans.set c.toNat ch', reply := t.reply })

/-- 40_ringbuffer.md R149: a write that would raise `TOTAL` above 2^64 - 1 is refused, be it RB_ADD, RB_ADD_RANGE or a commit, be the
commit named by the schedule, waited for by an operation of its agent (log 12) or brought by an empty schedule (log 13). That a range or a commit of which a part would fit is refused whole is the model's reading of 60_exceptions.md R327 (d) (log 19). -/
def Obligations.TotalOverflowRefused : Prop :=
  ∀ (s : State) (c : BitVec 8) (ch : Channel) (vs : List F64),
    s.ready = true → s.chan? c = some ch → 2 ^ 64 ≤ ch.ring.total.toNat + vs.length →
    exec (.rbAddRange c vs) s = .refused .totalOverflow ∧
    (∀ v, vs = [v] → exec (.rbAdd c v) s = .refused .totalOverflow) ∧
    (∀ agent before f after pre post, PendingAt s.flights before f after agent pre c vs post →
      (∀ rest, s.inbox = .commit agent c :: rest → step s = .refused .totalOverflow) ∧
      (∀ cmd rest, s.inbox = .issue agent cmd :: rest → pre = [] → step s = .refused .totalOverflow) ∧
      (s.inbox = [] → before = [] → pre = [] → step s = .refused .totalOverflow))

/-- 40_ringbuffer.md R143: RB_COPY_LATEST copies the `k` newest samples, oldest first, leaves the rest of the destination, and
changes no state; a destination too short is refused (60_exceptions.md R325 d). The destination is an operand (log 25). -/
def Obligations.RbCopyLatestCopies : Prop :=
  ∀ (s : State) (c : BitVec 8) (ch : Channel) (n : BitVec 32) (dest : List F64),
    (encode (.rbCopyLatest c n dest)).word = 0x12#8 ++ c ∧
    (s.ready = true → s.chan? c = some ch → ch.ring.wf (s.cap c) = true →
      (dest.length < min n.toNat ch.ring.count → exec (.rbCopyLatest c n dest) s = .refused .destinationTooShort) ∧
      (min n.toNat ch.ring.count ≤ dest.length →
        ∃ out, exec (.rbCopyLatest c n dest) s = .next { s with reply := .copied (min n.toNat ch.ring.count) out } ∧
          out.length = dest.length ∧
          (∀ i, min n.toNat ch.ring.count ≤ i → out[i]? = dest[i]?) ∧
          ∀ i < min n.toNat ch.ring.count, ∃ v, out[i]? = some v ∧
            ch.ring.buf[(ch.ring.head + s.cap c - min n.toNat ch.ring.count + i) % s.cap c]? = some (some v)))

/-- 40_ringbuffer.md R144, R151: RB_NEW_DATA_SINCE returns exactly the samples with sequence numbers from
`max(min(cursor, t), t - COUNT)` to `t - 1` and the cursor `t`, and changes no state. -/
def Obligations.RbNewDataSinceReads : Prop :=
  ∀ (s : State) (c : BitVec 8) (ch : Channel) (q : BitVec 64),
    (encode (.rbNewDataSince c q)).word = 0x13#8 ++ c ∧
    (s.ready = true → s.chan? c = some ch → ch.ring.wf (s.cap c) = true →
      let t := ch.ring.total.toNat
      let start := max (min q.toNat t) (t - ch.ring.count)
      ∃ seq, exec (.rbNewDataSince c q) s = .next { s with reply := .fresh seq ch.ring.total } ∧
        seq.length = t - start ∧
        ∀ i < t - start, ∃ v, seq[i]? = some v ∧
          ch.ring.buf[(ch.ring.head + s.cap c - (t - (start + i))) % s.cap c]? = some (some v))

/-- 40_ringbuffer.md R148: after any writes since the last clear or reset (COUNT = 0), RB_COPY_LATEST returns the last
`min(n, N, C)` of the values in insertion order, and RB_COUNT `min(N, C)`. -/
def Obligations.LatestAreLastWritten : Prop :=
  ∀ (s : State) (c : BitVec 8) (ch : Channel) (ws : List (F64 ⊕ List F64)) (n : BitVec 32) (dest : List F64),
    s.ready = true → s.chan? c = some ch → ch.ring.wf (s.cap c) = true → ch.ring.count = 0 →
    ch.ring.total.toNat + (writtenValues ws).length < 2 ^ 64 →
    let vs := writtenValues ws
    let k := min n.toNat (min vs.length (s.cap c))
    (∃ t, execAll (writeOps c ws ++ [.rbCount c]) s = .next t ∧ t.reply = .count (min vs.length (s.cap c))) ∧
    (k ≤ dest.length → ∃ t, execAll (writeOps c ws ++ [.rbCopyLatest c n dest]) s = .next t ∧
      t.reply = .copied k (vs.drop (vs.length - k) ++ dest.drop k))

/-- 40_ringbuffer.md R144, R151 with 20_memory.md R83: a reader that took its cursor before some writes and reads after them gets
exactly what was written since, less what was overwritten, in order, and the new cursor. -/
def Obligations.CursorReadsWhatIsNew : Prop :=
  ∀ (s : State) (c : BitVec 8) (ch : Channel) (ws : List (F64 ⊕ List F64)),
    s.ready = true → s.chan? c = some ch → ch.ring.wf (s.cap c) = true →
    ch.ring.total.toNat + (writtenValues ws).length < 2 ^ 64 →
    ∃ t, execAll (writeOps c ws ++ [.rbNewDataSince c ch.ring.total]) s = .next t ∧
      t.reply = .fresh ((writtenValues ws).drop ((writtenValues ws).length - s.cap c))
        (ch.ring.total + BitVec.ofNat 64 (writtenValues ws).length)

/-- 40_ringbuffer.md R145: RB_CLEAR empties the RingBuffer and keeps `TOTAL`. -/
def Obligations.RbClearEmpties : Prop :=
  ∀ (s : State) (c : BitVec 8) (ch : Channel),
    (encode (.rbClear c)).word = 0x14#8 ++ c ∧
    (s.ready = true → s.chan? c = some ch →
      exec (.rbClear c) s = .next
        { s with
          chans := s.chans.set c.toNat
            { ch with
              ring :=
                { buf := List.replicate ch.ring.buf.length none, head := 0, count := 0, total := ch.ring.total } }
          reply := .none })

/-- 40_ringbuffer.md R146, R147: RB_CAPACITY returns `CAP[c]`, RB_COUNT returns `COUNT[c]`, and no state changes. -/
def Obligations.RbCapacityAndCount : Prop :=
  ∀ (s : State) (c : BitVec 8) (ch : Channel) (cap : Nat),
    (encode (.rbCapacity c)).word = 0x15#8 ++ c ∧ (encode (.rbCount c)).word = 0x16#8 ++ c ∧
    (s.ready = true → s.chan? c = some ch → s.cr.caps[c.toNat]? = some cap →
      s.cap c = cap ∧
      exec (.rbCapacity c) s = .next { s with reply := .capacity cap } ∧
      exec (.rbCount c) s = .next { s with reply := .count ch.ring.count } ∧
      (ch.ring.wf cap = true → ch.ring.count ≤ cap))

/-! ## FrameParser -/

/-- 60_exceptions.md R321: a Discard empties `RES`, returns `NCH` empty arrays and DISCARDED, and changes nothing else. That a variant
row in a state of the other mode does what its word does there is the model's reading (log 14). -/
def Obligations.DiscardEmptiesResidue : Prop :=
  ∀ (s : State) (chunk : List Byte), s.ready = true → chunk.length ≤ s.cr.chunkMax →
    ∀ i ∈ [Instr.fpParse chunk true, .fpParseBin chunk true, .fpParseAscii chunk true],
      exec i s = .next { s with res := [], reply := .parsed (List.replicate s.cr.nch []) .discarded }

/-- 41_frameparser.md R170: a parse decodes `RES ++ chunk` with the decoder that MODE selects and keeps the capped residue (R175); a
chunk longer than CHUNK_MAX is refused; the same for the variant row of the mode. -/
def Obligations.ParseRuns : Prop :=
  ∀ (s : State) (chunk : List Byte) (fault : Bool),
    (encode (.fpParse chunk fault)).word = 0x2000#16 ∧
    (s.ready = true →
      (s.cr.chunkMax < chunk.length → exec (.fpParse chunk fault) s = .refused .chunkTooLong) ∧
      (chunk.length ≤ s.cr.chunkMax → ∀ out : List (List F64) × List Byte,
        (s.cr.mode = .binary → out = parseBinary s.cr (s.res ++ chunk) →
          ∀ i ∈ [Instr.fpParse chunk false, .fpParseBin chunk false],
            exec i s = .next
              { s with
                res := out.2.drop (out.2.length - s.cr.residueCap)
                reply := .parsed ((List.range s.cr.nch).map (fun c => out.1.map (fun f => f.getD c .zero))) .ok }) ∧
        (s.cr.mode = .ascii → out = parseAscii s.cr (s.res ++ chunk) →
          ∀ i ∈ [Instr.fpParse chunk false, .fpParseAscii chunk false],
            exec i s = .next
              { s with
                res := out.2.drop (out.2.length - s.cr.residueCap)
                reply := .parsed ((List.range s.cr.nch).map (fun c => out.1.map (fun f => f.getD c .zero))) .ok })))

/-- 41_frameparser.md R174, R175, R177, R181: `NCH` arrays of one length; the new residue is a tail of `RES ++ chunk` of at most
RESIDUE_CAP bytes. -/
def Obligations.ParseShapeAndResidue : Prop :=
  ∀ (s t : State) (chunk : List Byte) (fault : Bool) (samples : List (List F64)) (status : Status),
    exec (.fpParse chunk fault) s = .next t → t.reply = .parsed samples status →
    samples.length = s.cr.nch ∧ (∀ a ∈ samples, ∀ b ∈ samples, a.length = b.length) ∧
    t.res.length ≤ s.cr.residueCap ∧ t.res <:+ s.res ++ chunk

/-- 41_frameparser.md R171, R173, R174: the binary decoder takes the leftmost marker; if its frame is complete it decodes it, drops
what stood before it, and goes on after it; else it keeps everything as the residue. -/
def Obligations.BinaryScan : Prop :=
  ∀ (cr : Params) (data : List Byte), cr.marker ≠ [] →
    cr.frameBytes = cr.marker.length + cr.nch * elemWidth cr.etype ∧
    (∀ p, standsAt cr.marker data p → (∀ q < p, ¬ standsAt cr.marker data q) → p + cr.frameBytes ≤ data.length →
      parseBinary cr data =
        ((List.range cr.nch).map (fun c => decodeElem cr.endian cr.etype
            ((data.drop (p + cr.marker.length + c * elemWidth cr.etype)).take (elemWidth cr.etype)))
          :: (parseBinary cr (data.drop (p + cr.frameBytes))).1,
         (parseBinary cr (data.drop (p + cr.frameBytes))).2)) ∧
    ((∀ p, standsAt cr.marker data p → (∀ q < p, ¬ standsAt cr.marker data q) → data.length < p + cr.frameBytes) →
      parseBinary cr data = ([], data))

/-- 30_encoding.md R101 to R103, 41_frameparser.md R173, R174: a stream of frames, each after bytes in which no marker starts, decodes
to their elements in order, and what follows the last frame is the residue. -/
def Obligations.BinaryStreamDecodes : Prop :=
  ∀ (s : State) (chunk : List Byte) (frames : List (List Byte × List (List Byte))) (tail : List Byte),
    s.ready = true → s.cr.legal = true → s.cr.mode = .binary → chunk.length ≤ s.cr.chunkMax →
    (∀ f ∈ frames, f.2.length = s.cr.nch ∧ (∀ e ∈ f.2, e.length = elemWidth s.cr.etype) ∧
      ∀ q < f.1.length, ¬ standsAt s.cr.marker (f.1 ++ s.cr.marker ++ f.2.flatten) q) →
    (∀ p, standsAt s.cr.marker tail p → (∀ q < p, ¬ standsAt s.cr.marker tail q) → tail.length < p + s.cr.frameBytes) →
    s.res ++ chunk = frames.flatMap (fun f => f.1 ++ s.cr.marker ++ f.2.flatten) ++ tail →
    exec (.fpParse chunk false) s = .next
      { s with
        res := tail.drop (tail.length - s.cr.residueCap)
        reply := .parsed ((List.range s.cr.nch).map (fun c =>
          frames.map (fun f => decodeElem s.cr.endian s.cr.etype (f.2.getD c [])))) .ok }

/-- 41_frameparser.md R190, binary: cutting a chunk in two changes neither the samples nor the final residue. That the same f32 NaN
word widens to the same NaN in both runs is the model's choice (log 7). -/
def Obligations.BinaryChunkBoundary : Prop :=
  ∀ (s : State) (a b : List Byte),
    s.ready = true → s.cr.legal = true → s.cr.mode = .binary → (a ++ b).length ≤ s.cr.chunkMax →
    ∃ t ta tb xs xa xb,
      exec (.fpParse (a ++ b) false) s = .next t ∧ t.reply = .parsed xs .ok ∧
      exec (.fpParse a false) s = .next ta ∧ ta.reply = .parsed xa .ok ∧
      exec (.fpParse b false) ta = .next tb ∧ tb.reply = .parsed xb .ok ∧
      xs = List.zipWith (· ++ ·) xa xb ∧ tb.res = t.res

/-- 30_encoding.md R108, R109, R112, 41_frameparser.md R180, R181: terminated lines decode, token by token, to one frame per line that
is not blank, missing tokens to +0.0; what follows the last terminator is the residue. -/
def Obligations.AsciiStreamDecodes : Prop :=
  ∀ (s : State) (chunk : List Byte) (lines : List (List (List Byte))) (tail : List Byte),
    s.ready = true → s.cr.legal = true → s.cr.mode = .ascii → chunk.length ≤ s.cr.chunkMax →
    (∀ l ∈ lines, l ≠ [] ∧ (∀ t ∈ l, s.cr.delim ∉ t) ∧
      ∀ q < (List.intercalate [s.cr.delim] l).length,
        ¬ standsAt s.cr.term (List.intercalate [s.cr.delim] l ++ s.cr.term) q) →
    (∀ q, ¬ standsAt s.cr.term tail q) →
    s.res ++ chunk = lines.flatMap (fun l => List.intercalate [s.cr.delim] l ++ s.cr.term) ++ tail →
    exec (.fpParse chunk false) s = .next
      { s with
        res := tail.drop (tail.length - s.cr.residueCap)
        reply := .parsed ((List.range s.cr.nch).map (fun c =>
          (lines.filter (fun l =>
              !(List.intercalate [s.cr.delim] l).all (fun b => isWs b && b != s.cr.delim))).map (fun l =>
            (l[c]?.map num).getD .zero))) .ok }

/-- 41_frameparser.md R190, ASCII: if no line of `RES ++ chunk` with its terminator is longer than RESIDUE_CAP, cutting a chunk in two
changes neither the samples nor the final residue. -/
def Obligations.AsciiChunkBoundary : Prop :=
  ∀ (s : State) (a b : List Byte),
    s.ready = true → s.cr.legal = true → s.cr.mode = .ascii → (a ++ b).length ≤ s.cr.chunkMax →
    (∀ line ∈ (linesOf s.cr.term ((s.res ++ (a ++ b)).length + 1) (s.res ++ (a ++ b))).1,
      line.length + s.cr.term.length ≤ s.cr.residueCap) →
    ∃ t ta tb xs xa xb,
      exec (.fpParse (a ++ b) false) s = .next t ∧ t.reply = .parsed xs .ok ∧
      exec (.fpParse a false) s = .next ta ∧ ta.reply = .parsed xa .ok ∧
      exec (.fpParse b false) ta = .next tb ∧ tb.reply = .parsed xb .ok ∧
      xs = List.zipWith (· ++ ·) xa xb ∧ tb.res = t.res

/-- 30_encoding.md R109 to R111, R114: white space is space, tab, carriage return and line feed; around a token it does not matter; a token with a byte of no role is +0.0; a string of
decimal digits up to 2^53 is that integer exactly (2^53 itself: log 20), after `-` its negative; every numeric token, with any sign,
fraction and exponent, is the nearest sample to its value, ties to even, past the range the infinity and below it the zero of its
sign; every other token is +0.0. -/
def Obligations.TokenValues : Prop :=
  (∀ x : Byte, isWs x = true ↔ x ∈ [0x20, 0x09, 0x0D, 0x0A]) ∧
  (∀ a t b : List Byte, (∀ x ∈ a, isWs x = true) → (∀ x ∈ b, isWs x = true) → num (a ++ t ++ b) = num t) ∧
  (∀ (t : List Byte) (x : Byte), x ∈ t →
    x ∉ [0x20, 0x09, 0x0D, 0x0A, 0x2B, 0x2D, 0x2E, 0x45, 0x65] → ¬ (0x30 ≤ x.toNat ∧ x.toNat ≤ 0x39) → num t = .zero) ∧
  (∀ n : Nat, n ≤ 2 ^ 53 →
    num ((Nat.toDigits 10 n).map (fun d => BitVec.ofNat 8 d.toNat)) = F64.ofNat n ∧
    num (0x2D :: (Nat.toDigits 10 n).map (fun d => BitVec.ofNat 8 d.toNat)) = (F64.ofNat n).neg) ∧
  (∀ x : Numeral, x.wf = true → x.denotes (num x.bytes)) ∧
  (∀ t : List Byte, (∀ x ∈ t.head?, x ∉ [0x20, 0x09, 0x0D, 0x0A]) → (∀ x ∈ t.getLast?, x ∉ [0x20, 0x09, 0x0D, 0x0A]) →
    (∀ x : Numeral, x.wf = true → x.bytes ≠ t) → num t = .zero)

/-- 30_encoding.md R104 to R106: the widths of the types 0 to 6 are 1, 1, 2, 2, 4, 4, 4 bytes; an element is the integer its bytes spell in the configured order, two's complement for the signed
types, and the binary32 word for f32. -/
def Obligations.ElementsAssemble : Prop :=
  ([0, 1, 2, 3, 4, 5, 6] : List (BitVec 3)).map elemWidth = [1, 1, 2, 2, 4, 4, 4] ∧
  ∀ (endian : Endian) (etype : BitVec 3) (e : List Byte), etype ≠ 7 → e.length = elemWidth etype →
    let v : Nat := ((List.range e.length).map (fun k =>
      (e.getD k 0).toNat * 2 ^ (8 * (match endian with | .little => k | .big => e.length - 1 - k)))).sum
    (etype.toNat ∈ [0, 2, 4] → decodeElem endian etype e = F64.ofInt v) ∧
    (etype.toNat ∈ [1, 3, 5] → decodeElem endian etype e =
      F64.ofInt (if v < 2 ^ (8 * e.length - 1) then (v : Int) else (v : Int) - 2 ^ (8 * e.length))) ∧
    (etype = 6 → decodeElem endian etype e = F64.ofF32 (BitVec.ofNat 32 v))

/-- 00_scope.md R9, 30_encoding.md R104: `toF64` is exact; the value of a finite number is counted in units of 2^-1074. R9 speaks of
magnitudes below 2^53; that 2^53 itself converts exactly too is the model's choice (log 20). -/
def Obligations.IntegersConvertExactly : Prop :=
  (∀ i : Int, i.natAbs ≤ 2 ^ 53 →
    ∃ neg mag, F64.ofInt i = .finite neg mag ∧ F64.signedUnits neg mag.val = i * 2 ^ 1074) ∧
  (F64.ofInt 0 = .finite false 0) ∧
  (∀ n : Nat, F64.ofNat n = F64.ofInt n)

/-- 30_encoding.md R107: an f32 word widens exactly, zeros, subnormals and infinities with their sign, a NaN to some NaN. -/
def Obligations.Binary32Widens : Prop :=
  ∀ v : BitVec 32,
    let sign := v.getLsbD 31
    let e := (v.extractLsb' 23 8).toNat
    let f := (v.extractLsb' 0 23).toNat
    (e = 255 → f = 0 → F64.ofF32 v = .inf sign) ∧
    (e = 255 → f ≠ 0 → (F64.ofF32 v).isNaN = true) ∧
    (e ≠ 255 → ∃ mag, F64.ofF32 v = .finite sign mag ∧
      F64.magUnits mag.val = (if e = 0 then f else (2 ^ 23 + f) * 2 ^ (e - 1)) * 2 ^ 925)

/-! ## Channel stage -/

/-- 42_channel_stage.md R211: CH_SET_CAL writes `GAIN` and `OFFSET` of its channel and nothing else. -/
def Obligations.ChSetCalWrites : Prop :=
  ∀ (s : State) (c : BitVec 8) (ch : Channel) (gain offset : F64),
    (encode (.chSetCal c gain offset)).word = 0x31#8 ++ c ∧
    (s.ready = true → s.chan? c = some ch →
      exec (.chSetCal c gain offset) s = .next
        { s with
          chans := s.chans.set c.toNat { ch with gain := gain, offset := offset }
          reply := .none })

/-- 42_channel_stage.md R212 to R216, step 0 of R214: every channel's samples go through calibration, filter and resampler with the
firewall after each, the filter and resampler advance, and the settings snapshot and the results stand in the in-flight record
(10_state.md R30) of the agent whose turn it is (log 12). The firewall makes every NaN and infinity +0.0 and keeps every finite sample, -0.0
too (R213); a block through the resampler is what RS_PROCESS gives (filter: `BlockIsRepeatedApply`). -/
def Obligations.ProcessBlockComputes : Prop :=
  (∀ (neg : Bool) (m : Fin infMag) (v : NaN),
    F64.san (.finite neg m) = .finite neg m ∧ F64.san (.inf neg) = .zero ∧ F64.san (.nan v) = .zero) ∧
  (∀ (s : State) (c : BitVec 8) (ch : Channel) (x : List F64), s.ready = true → s.chan? c = some ch →
    let r := rsBlock s.tables s.factor ch.rs x
    exec (.rsProcess c x) s = .next
      { s with chans := s.chans.set c.toNat { ch with rs := r.1 }, reply := .samples r.2 }) ∧
  ∀ (s : State) (samples : List (List F64)),
    s.ready = true → s.chans.length = s.cr.nch → samples.length = s.cr.nch →
    (∀ a ∈ samples, ∀ b ∈ samples, a.length = b.length) →
    let snapshot : Snapshot :=
      { channels := s.chans.map (fun ch =>
          { gain := ch.gain, offset := ch.offset, kind := ch.filter.kind, params := ch.filter.params })
        factor := s.factor }
    ∃ t pending, exec (.chProcessBlock samples) s = .next t ∧
      t = { s with
        chans := t.chans
        flights := s.flights ++ [{ agent := s.turn, snapshot := snapshot, pending := pending }]
        reply := .none } ∧
      t.chans.length = s.cr.nch ∧ pending.length = s.cr.nch ∧
      ∀ (c : Nat) (ch : Channel) (raw : List F64), s.chans[c]? = some ch → samples[c]? = some raw →
        let a := raw.map (fun v => F64.san (F64.add (F64.mul v ch.gain) ch.offset))
        let b := if ch.filter.kind = 0 then a else (dfBlock ch.filter a).2.map F64.san
        let r := rsBlock s.tables s.factor ch.rs b
        pending[c]? = some (BitVec.ofNat 8 c, if s.factor = 0 then b else r.2.map F64.san) ∧
        t.chans[c]? = some { ch with filter := (dfBlock ch.filter a).1, rs := r.1 }

/-- 60_exceptions.md R325 (f): CH_PROCESS_BLOCK on a number of arrays other than `NCH`, or on arrays of unequal length, is refused. -/
def Obligations.BadBlockRefused : Prop :=
  ∀ (s : State) (samples : List (List F64)), s.ready = true →
    (samples.length ≠ s.cr.nch ∨ ∃ a ∈ samples, ∃ b ∈ samples, a.length ≠ b.length) →
    exec (.chProcessBlock samples) s = .refused .badBlock

/-- 42_channel_stage.md R216: a channel's results depend on nothing but its own samples, settings and registers, and the factor. That
the two runs agree in the open values too is the model's choice: equal operations give equal NaNs (log 6), and median filters with equal
registers and counter `draws` draw alike, a median with a NaN in its window (log 8) and the sign of a zero median (log 9). -/
def Obligations.ChannelsAreIndependent : Prop :=
  ∀ (s1 s2 t1 t2 : State) (ss1 ss2 : List (List F64)) (c : Nat) (ch1 ch2 : Channel) (raw : List F64),
    exec (.chProcessBlock ss1) s1 = .next t1 → exec (.chProcessBlock ss2) s2 = .next t2 →
    s1.tables = s2.tables → s1.factor = s2.factor →
    s1.chans[c]? = some ch1 → s2.chans[c]? = some ch2 → ss1[c]? = some raw → ss2[c]? = some raw →
    ch1.gain = ch2.gain → ch1.offset = ch2.offset → ch1.filter = ch2.filter → ch1.rs = ch2.rs →
    ∃ d1 d2 out, t1.chans[c]? = some d1 ∧ t2.chans[c]? = some d2 ∧ d1.filter = d2.filter ∧ d1.rs = d2.rs ∧
      (t1.flights.getLast?.bind (fun f => f.pending[c]?)) = some (BitVec.ofNat 8 c, out) ∧
      (t2.flights.getLast?.bind (fun f => f.pending[c]?)) = some (BitVec.ofNat 8 c, out)

/-- 42_channel_stage.md R214, R217: a commit step is RB_ADD_RANGE of the channel's array, the one that stands in the record, and nothing else, whether the schedule names
it, an operation of the same agent waits for it (log 12), or nothing is left in the schedule (log 13). Each record left keeps the
settings snapshot it was made with (10_state.md R30 b) and has nothing to commit that it had not before. -/
def Obligations.CommitStepAppends : Prop :=
  ∀ (s : State) (agent : Nat) (c : BitVec 8) (values : List F64) (ch : Channel) (before after : List Flight) (f : Flight)
    (pre post : List (BitVec 8 × List F64)),
    s.ready = true → s.chan? c = some ch → PendingAt s.flights before f after agent pre c values post →
    ch.ring.total.toNat + values.length < 2 ^ 64 →
    let chans := s.chans.set c.toNat { ch with ring := values.foldl (Ring.add (s.cap c)) ch.ring }
    let flights := afterCommit before f after pre post
    exec (.rbAddRange c values) s = .next { s with chans := chans, reply := .none } ∧
    (∀ rest, s.inbox = .commit agent c :: rest →
      step s = .next { s with inbox := rest, chans := chans, flights := flights }) ∧
    (∀ cmd rest, s.inbox = .issue agent cmd :: rest → pre = [] →
      step s = .next { s with chans := chans, flights := flights }) ∧
    (s.inbox = [] → before = [] → pre = [] → step s = .next { s with chans := chans, flights := flights }) ∧
    (∀ k ∈ flights, ∃ g ∈ s.flights, k.agent = g.agent ∧ k.snapshot = g.snapshot ∧ k.pending.Sublist g.pending)

/-- 42_channel_stage.md R214, R217: after step 0 the commit steps may come in any order; each channel's RingBuffer gets once the array
that step 0 left for it in the record (`ProcessBlockComputes` says which), and the record is dropped after the last. The schedule names the agent and the channel of each (log 12). -/
def Obligations.BlockCommitsInAnyOrder : Prop :=
  ∀ (s s1 : State) (agent : Nat) (samples : List (List F64)) (order : List (BitVec 8)),
    s.wf = true → s.ready = true → (∀ f ∈ s.flights, f.agent ≠ agent) →
    exec (.chProcessBlock samples) { s with turn := agent } = .next s1 →
    order.Perm ((List.range s.cr.nch).map (BitVec.ofNat 8)) →
    (∀ f c ch values, s1.flights.getLast? = some f → (c, values) ∈ f.pending → s1.chan? c = some ch →
      ch.ring.total.toNat + values.length < 2 ^ 64) →
    ∃ t, runSteps s.cr.nch { s1 with inbox := order.map (Event.commit agent) } = .next t ∧
      t = { s1 with inbox := [], chans := t.chans, flights := s.flights } ∧
      ∃ f, s1.flights = s.flights ++ [f] ∧ f.agent = agent ∧
      ∀ c ch, s1.chan? c = some ch → ∃ values, f.pending[c.toNat]? = some (c, values) ∧
        t.chan? c = some { ch with ring := values.foldl (Ring.add (s1.cap c)) ch.ring }

/-- 42_channel_stage.md R213, R218: every commit step, and every step of the machine that is no RB_ADD or RB_ADD_RANGE issued by the host,
leaves in the RingBuffers only values that stood there before it or are finite. Commit steps come from the schedule, for a waiting
operation of the same agent (log 12) and with an empty schedule (log 13), and all are meant. -/
def Obligations.CommittedValuesAreFinite : Prop :=
  (∀ (s t : State) (agent : Nat) (c : BitVec 8), s.wf = true → commitStep s agent c = .next t → onlyFiniteWritten s t) ∧
  (∀ s t : State, s.wf = true → step s = .next t →
    (∀ agent cmd rest i, s.inbox = .issue agent cmd :: rest → nextPending agent s.inFlight = none → decode cmd = .ok i →
      (∀ c v, i ≠ .rbAdd c v) ∧ ∀ c vs, i ≠ .rbAddRange c vs) →
    onlyFiniteWritten s t)

/-- 70_reset_and_hazards.md R353: right after SYS_RESET finite samples other than -0.0 pass through unchanged. The one finite value that does not is -0.0, which
the addition of the offset +0.0 turns into +0.0 (42_channel_stage.md R212). -/
def Obligations.ResetPassesSamplesThrough : Prop :=
  ∀ (s : State) (p : Params) (samples : List (List F64)),
    p.legal = true → samples.length = p.nch → (∀ a ∈ samples, ∀ b ∈ samples, a.length = b.length) →
    (∀ a ∈ samples, ∀ v ∈ a, v.isFinite = true ∧ v ≠ F64.signedZero true) →
    ∃ t, execAll [.sysReset p, .chProcessBlock samples] s = .next t ∧
      t.chans = p.caps.map Channel.reset ∧
      t.flights =
        [{ agent := s.turn
           snapshot := { channels := p.caps.map (fun _ => ⟨.one, .zero, 0, []⟩), factor := 0 }
           pending := samples.mapIdx (fun c a => (BitVec.ofNat 8 c, a)) }]

/-! ## DigitalFilter -/

/-- 43_digitalfilter.md R232, R239, R240: no filter, absolute value and square; each for the operation and its variant row. -/
def Obligations.PointwiseFilters : Prop :=
  (∀ x : F64, (F64.abs x).toBits = x.toBits &&& 0x7FFFFFFFFFFFFFFF#64) ∧
  ∀ (s : State) (c : BitVec 8) (ch : Channel) (x : F64), s.ready = true → s.chan? c = some ch →
    (ch.filter = .none → ∀ i ∈ [Instr.dfApply c x, .dfApplyNone c x],
      exec i s = .next { s with reply := .sample x }) ∧
    (ch.filter = .abs → ∀ i ∈ [Instr.dfApply c x, .dfApplyAbs c x],
      exec i s = .next { s with reply := .sample (F64.abs x) }) ∧
    (ch.filter = .square → ∀ i ∈ [Instr.dfApply c x, .dfApplySquare c x],
      exec i s = .next { s with reply := .sample (F64.mul x x) })

/-- 43_digitalfilter.md R233, R234: exponential low-pass and high-pass; each for the operation and its variant row. -/
def Obligations.LowAndHighPass : Prop :=
  ∀ (s : State) (c : BitVec 8) (ch : Channel) (x alpha yLp : F64), s.ready = true → s.chan? c = some ch →
    let low := F64.add (F64.mul alpha x) (F64.mul (F64.sub .one alpha) yLp)
    (ch.filter = .lp ⟨alpha, yLp⟩ → ∀ i ∈ [Instr.dfApply c x, .dfApplyLp c x],
      exec i s = .next
        { s with
          chans := s.chans.set c.toNat { ch with filter := .lp ⟨alpha, low⟩ }
          reply := .sample low }) ∧
    (ch.filter = .hp ⟨alpha, yLp⟩ → ∀ i ∈ [Instr.dfApply c x, .dfApplyHp c x],
      exec i s = .next
        { s with
          chans := s.chans.set c.toNat { ch with filter := .hp ⟨alpha, low⟩ }
          reply := .sample (F64.sub x low) })

/-- 43_digitalfilter.md R235: the moving average, with the window full and before; the operation and its variant row. -/
def Obligations.MovingAverageApplies : Prop :=
  ∀ (s : State) (c : BitVec 8) (ch : Channel) (r : MovingAverage) (x : F64),
    s.ready = true → s.chan? c = some ch → ch.filter = .mavg r →
    ∀ i ∈ [Instr.dfApply c x, .dfApplyMavg c x],
      (∀ old, r.n = r.w → r.win[r.idx]? = some (some old) →
        exec i s = .next
          { s with
            chans := s.chans.set c.toNat
              { ch with
                filter := .mavg
                  { r with
                    win := r.win.set r.idx (some x)
                    idx := (r.idx + 1) % r.w
                    sum := F64.add (F64.sub r.sum old) x } }
            reply := .sample (F64.div (F64.add (F64.sub r.sum old) x) (F64.ofNat r.n)) }) ∧
      (r.n ≠ r.w →
        exec i s = .next
          { s with
            chans := s.chans.set c.toNat
              { ch with
                filter := .mavg
                  { r with
                    win := r.win.set r.idx (some x)
                    idx := (r.idx + 1) % r.w
                    n := r.n + 1
                    sum := F64.add r.sum x } }
            reply := .sample (F64.div (F64.add r.sum x) (F64.ofNat (r.n + 1))) })

/-- 43_digitalfilter.md R236: the median of the values present, whatever ascending order `v` of them is taken; with a NaN among them, or
for the sign of a zero median of a window with zeros of both signs, the value is left open (logs 8 and 9, whose counter `draws` also advances). -/
def Obligations.MedianApplies : Prop :=
  ∀ (s : State) (c : BitVec 8) (ch : Channel) (r : MedianFilter) (x : F64) (present : List F64),
    s.ready = true → s.chan? c = some ch → ch.filter = .median r →
    present.length = (if r.n < r.w then r.n + 1 else r.n) →
    (∀ j < present.length, (r.win.set r.idx (some x))[j]? = (present[j]?).map some) →
    ∀ i ∈ [Instr.dfApply c x, .dfApplyMedian c x],
      ∃ y, exec i s = .next
          { s with
            chans := s.chans.set c.toNat
              { ch with
                filter := .median
                  { r with
                    win := r.win.set r.idx (some x)
                    idx := (r.idx + 1) % r.w
                    n := present.length
                    draws := r.draws + 1 } }
            reply := .sample y } ∧
        ∀ v : List F64, v.Perm present → v.Pairwise (fun a b => F64.lt b a = false) →
          (∀ a ∈ present, a.isNaN = false) →
          ∀ low high, v[v.length / 2]? = some high → v[(v.length - 1) / 2]? = some low →
            let median := if v.length % 2 = 1 then high else F64.div (F64.add low high) .two
            let open_ := median.isZero = true ∧ F64.signedZero true ∈ present ∧ F64.signedZero false ∈ present
            (open_ → y.isZero = true) ∧ (¬ open_ → y = median)

/-- 43_digitalfilter.md R237, R238: notch and biquad, direct form, terms in the rule's order; each for the operation and its variant row. -/
def Obligations.RecursiveFilters : Prop :=
  (∀ (s : State) (c : BitVec 8) (ch : Channel) (r : Notch) (x : F64),
    s.ready = true → s.chan? c = some ch → ch.filter = .notch r →
    let y := F64.sub (F64.add (F64.add (F64.sub x (F64.mul r.c1 r.delay.x1)) r.delay.x2) (F64.mul r.c2 r.delay.y1))
      (F64.mul r.c3 r.delay.y2)
    ∀ i ∈ [Instr.dfApply c x, .dfApplyNotch c x],
      exec i s = .next
        { s with
          chans := s.chans.set c.toNat
            { ch with filter := .notch { r with delay := { x1 := x, x2 := r.delay.x1, y1 := y, y2 := r.delay.y1 } } }
          reply := .sample y }) ∧
  (∀ (s : State) (c : BitVec 8) (ch : Channel) (r : Biquad) (x : F64),
    s.ready = true → s.chan? c = some ch → ch.filter = .biquad r →
    let y := F64.sub (F64.sub (F64.add (F64.add (F64.mul r.b0 x) (F64.mul r.b1 r.delay.x1)) (F64.mul r.b2 r.delay.x2))
      (F64.mul r.a1 r.delay.y1)) (F64.mul r.a2 r.delay.y2)
    ∀ i ∈ [Instr.dfApply c x, .dfApplyBiquad c x],
      exec i s = .next
        { s with
          chans := s.chans.set c.toNat
            { ch with filter := .biquad { r with delay := { x1 := x, x2 := r.delay.x1, y1 := y, y2 := r.delay.y1 } } }
          reply := .sample y })

/-- 43_digitalfilter.md R241: the interpolating-downsample filter, before its first sample, at an anchor tick and between. -/
def Obligations.InterpolatorApplies : Prop :=
  ∀ (s : State) (c : BitVec 8) (ch : Channel) (r : Interp) (x : F64),
    s.ready = true → s.chan? c = some ch → ch.filter = .interp r →
    let k := if r.primed = false then 0 else r.k
    let a0 := if r.primed = false then x else if r.k = 0 then r.a1 else r.a0
    let a1 := if r.primed = false then x else if r.k = 0 then x else r.a1
    ∀ i ∈ [Instr.dfApply c x, .dfApplyInterp c x],
      exec i s = .next
        { s with
          chans := s.chans.set c.toNat
            { ch with filter := .interp { ndec := r.ndec, k := (k + 1) % r.ndec, a0 := a0, a1 := a1, primed := true } }
          reply := .sample
            (F64.add a0 (F64.mul (F64.sub a1 a0) (F64.div (F64.ofNat k) (F64.ofNat r.ndec)))) }

/-- 30_encoding.md R123, 43_digitalfilter.md R230: a block through a filter, as the channel stage takes it, is one DF_APPLY per sample in
order, and has one output per input. That both ways give the same open values is the model's choice (logs 6, 8 and 9). -/
def Obligations.BlockIsRepeatedApply : Prop :=
  ∀ (s : State) (c : BitVec 8) (ch : Channel) (xs : List F64), s.ready = true → s.chan? c = some ch →
    (dfBlock ch.filter xs).2.length = xs.length ∧
    (∃ t, execAll (xs.map (Instr.dfApply c)) s = .next t ∧
      t.chan? c = some { ch with filter := (dfBlock ch.filter xs).1 }) ∧
    ∀ i < xs.length, ∃ t y, execAll ((xs.take (i + 1)).map (Instr.dfApply c)) s = .next t ∧
      (dfBlock ch.filter xs).2[i]? = some y ∧ t.reply = .sample y

/-- 43_digitalfilter.md R242: DF_RESET gives the working registers of 10_state.md R28 their reset values and keeps kind, parameters and
coefficients. -/
def Obligations.DfResetResets : Prop :=
  ∀ (s : State) (c : BitVec 8) (ch : Channel),
    (encode (.dfReset c)).word = 0x41#8 ++ c ∧
    (s.ready = true → s.chan? c = some ch →
      ∃ f, exec (.dfReset c) s = .next
          { s with chans := s.chans.set c.toNat { ch with filter := f }, reply := .none } ∧
        f.kind = ch.filter.kind ∧ f.params = ch.filter.params ∧
        (∀ r, ch.filter = .lp r → f = .lp { r with yLp := .zero }) ∧
        (∀ r, ch.filter = .hp r → f = .hp { r with yLp := .zero }) ∧
        (∀ r, ch.filter = .mavg r → f = .mavg
          { w := r.w, win := List.replicate r.w none, idx := 0, n := 0, sum := .zero }) ∧
        (∀ r, ch.filter = .median r → f = .median
          { w := r.w, win := List.replicate r.w none, idx := 0, n := 0, draws := 0 }) ∧
        (∀ r, ch.filter = .notch r → f = .notch { r with delay := ⟨.zero, .zero, .zero, .zero⟩ }) ∧
        (∀ r, ch.filter = .biquad r → f = .biquad { r with delay := ⟨.zero, .zero, .zero, .zero⟩ }) ∧
        (∀ r, ch.filter = .interp r → f = .interp { r with k := 0, a0 := .zero, a1 := .zero, primed := false }))

/-- 43_digitalfilter.md R243, R244: DF_KIND and DF_PARAMS return kind and parameters, by the codes and in the order of 30_encoding.md R121, change no state, and after a DF_SELECT return what
was given to it. -/
def Obligations.KindAndParamsReadBack : Prop :=
  (DFilter.none.kind = 0 ∧ DFilter.none.params = [] ∧ DFilter.abs.kind = 7 ∧ DFilter.abs.params = [] ∧
    DFilter.square.kind = 8 ∧ DFilter.square.params = []) ∧
  (∀ r : LowPass, (DFilter.lp r).kind = 1 ∧ (DFilter.lp r).params = [.real r.alpha] ∧
    (DFilter.hp r).kind = 2 ∧ (DFilter.hp r).params = [.real r.alpha]) ∧
  (∀ r : MovingAverage, (DFilter.mavg r).kind = 3 ∧ (DFilter.mavg r).params = [.int r.w]) ∧
  (∀ r : MedianFilter, (DFilter.median r).kind = 4 ∧ (DFilter.median r).params = [.int r.w]) ∧
  (∀ r : Notch, (DFilter.notch r).kind = 5 ∧ (DFilter.notch r).params = [.real r.f0, .real r.fs, .real r.bw]) ∧
  (∀ r : Biquad, (DFilter.biquad r).kind = 6 ∧
    (DFilter.biquad r).params = [.real r.b0, .real r.b1, .real r.b2, .real r.a1, .real r.a2]) ∧
  (∀ r : Interp, (DFilter.interp r).kind = 9 ∧ (DFilter.interp r).params = [.int r.ndec]) ∧
  ∀ (s : State) (c : BitVec 8) (ch : Channel),
    (encode (.dfKind c)).word = 0x42#8 ++ c ∧ (encode (.dfParams c)).word = 0x43#8 ++ c ∧
    (s.ready = true → s.chan? c = some ch →
      exec (.dfKind c) s = .next { s with reply := .kind ch.filter.kind } ∧
      exec (.dfParams c) s = .next { s with reply := .params ch.filter.params } ∧
      ∀ (kind : BitVec 4) (ps : List FParam) (t : State), exec (.dfSelect c kind ps) s = .next t →
        exec (.dfKind c) t = .next { t with reply := .kind kind } ∧
        exec (.dfParams c) t = .next { t with reply := .params ps })

/-- 43_digitalfilter.md R245, R246, R250: DF_SELECT with legal parameters installs the kind with its registers at reset, the notch with
the product relations of its coefficients over the model's own functions of F0, FS and BW (log 5); anything else is refused. -/
def Obligations.DfSelectInstalls : Prop :=
  ∀ (s : State) (c : BitVec 8) (ch : Channel) (kind : BitVec 4) (ps : List FParam),
    let legal :=
      (kind.toNat ∈ [0, 7, 8] ∧ ps = []) ∨
      (kind.toNat ∈ [1, 2] ∧ ∃ alpha, ps = [.real alpha] ∧ alpha.isFinite = true) ∨
      (kind.toNat ∈ [3, 4] ∧ ∃ w : Int, ps = [.int w] ∧ 1 ≤ w ∧ w ≤ s.cr.wMax) ∨
      (kind.toNat = 5 ∧ ∃ f0 fs bw, ps = [.real f0, .real fs, .real bw] ∧ f0.isFinite = true ∧ fs.isFinite = true ∧
        bw.isFinite = true ∧ F64.lt .zero fs = true) ∨
      (kind.toNat = 6 ∧ ∃ b0 b1 b2 a1 a2, ps = [.real b0, .real b1, .real b2, .real a1, .real a2] ∧ b0.isFinite = true ∧
        b1.isFinite = true ∧ b2.isFinite = true ∧ a1.isFinite = true ∧ a2.isFinite = true) ∨
      (kind.toNat = 9 ∧ ∃ n : Int, ps = [.int n] ∧ 1 ≤ n)
    (encode (.dfSelect c kind ps)).word = 0x44#8 ++ c ∧
    (s.ready = true → s.chan? c = some ch →
      (¬ legal → exec (.dfSelect c kind ps) s = .refused .badFilter) ∧
      (legal → ∃ f, exec (.dfSelect c kind ps) s = .next
          { s with chans := s.chans.set c.toNat { ch with filter := f }, reply := .none } ∧
        f.kind = kind ∧ f.params = ps ∧ f.reset = f ∧
        ∀ r, f = .notch r →
          r.c1 = F64.mul .two (Config.notchCos r.f0 r.fs r.bw) ∧
          r.c2 = F64.mul (Config.notchRadius r.f0 r.fs r.bw) r.c1 ∧
          r.c3 = F64.mul (Config.notchRadius r.f0 r.fs r.bw) (Config.notchRadius r.f0 r.fs r.bw)))

/-! ## Resampler -/

/-- 44_resampler.md R286: with factor 0 a block passes through and no state changes; the operation and its variant row. -/
def Obligations.BypassPassesThrough : Prop :=
  ∀ (s : State) (c : BitVec 8) (ch : Channel) (x : List F64),
    s.ready = true → s.chan? c = some ch → s.factor = 0 →
    ∀ i ∈ [Instr.rsProcess c x, .rsProcessBypass c x], exec i s = .next { s with reply := .samples x }

/-- 44_resampler.md R284, R287: the upsampler; the operation and its variant row. -/
def Obligations.UpsamplerApplies : Prop :=
  ∀ (s : State) (c : BitVec 8) (ch : Channel) (x : List F64),
    s.ready = true → s.chan? c = some ch → 0 < s.factor →
    let m := s.factor.toNat + 1
    let h := s.tables.kernel.getD (m - 2) []
    let z := ch.rs.tail ++ x.flatMap (fun v => v :: List.replicate s.factor.toNat .zero)
    let fir := fun j => (List.range 65).foldl
      (fun acc k => F64.add acc (F64.mul (h.getD k .zero) (z.getD (j + 64 - k) .zero))) .zero
    ∀ i ∈ [Instr.rsProcess c x, .rsProcessUp c x],
      exec i s = .next
        { s with
          chans := s.chans.set c.toNat { ch with rs := { ch.rs with tail := z.drop (z.length - 64) } }
          reply := .samples
            ((List.range (x.length * m)).map (fun j => F64.mul (s.tables.upGain.getD (m - 2) .zero) (fir j))) }

/-- 44_resampler.md R284, R288: the downsampler keeps the filtered samples at the positions where the phase is 0; the operation and its
variant row. -/
def Obligations.DownsamplerApplies : Prop :=
  ∀ (s : State) (c : BitVec 8) (ch : Channel) (x : List F64),
    s.ready = true → s.chan? c = some ch → s.factor < 0 → ch.rs.phase < s.factor.natAbs + 1 →
    let m := s.factor.natAbs + 1
    let h := s.tables.kernel.getD (m - 2) []
    let z := ch.rs.tail ++ x
    let fir := fun j => (List.range 65).foldl
      (fun acc k => F64.add acc (F64.mul (h.getD k .zero) (z.getD (j + 64 - k) .zero))) .zero
    ∀ i ∈ [Instr.rsProcess c x, .rsProcessDown c x],
      exec i s = .next
        { s with
          chans := s.chans.set c.toNat
            { ch with rs := { tail := z.drop (z.length - 64), phase := (ch.rs.phase + x.length) % m } }
          reply := .samples
            (((List.range x.length).filter (fun j => (ch.rs.phase + j) % m == 0)).map fir) }

/-- 44_resampler.md R285, R289: output lengths of the three variants, from phase 0 the rounded-up quotient; an empty block returns nothing
and changes nothing. -/
def Obligations.ResamplerLengths : Prop :=
  ∀ (s : State) (c : BitVec 8) (ch : Channel) (x : List F64),
    s.ready = true → s.chan? c = some ch → ch.rs.wf s.factor = true →
    let m := s.factor.natAbs + 1
    let d := (m - ch.rs.phase) % m
    ∃ t ys, exec (.rsProcess c x) s = .next t ∧ t.reply = .samples ys ∧
      (s.factor = 0 → ys.length = x.length) ∧
      (0 < s.factor → ys.length = x.length * m) ∧
      (s.factor < 0 → ys.length = if x.length ≤ d then 0 else (x.length - 1 - d) / m + 1) ∧
      (s.factor < 0 → ch.rs.phase = 0 → ys.length = (x.length + m - 1) / m) ∧
      (x = [] → t = { s with reply := .samples [] })

/-- 44_resampler.md R290: one block or the same block cut in two give the same outputs and leave the same state, bit for bit. That equal
operations give equal NaNs is the model's choice (log 6). -/
def Obligations.ResamplerSplits : Prop :=
  ∀ (s : State) (c : BitVec 8) (ch : Channel) (a b : List F64),
    s.ready = true → s.chan? c = some ch → ch.rs.tail.length = 64 →
    ∃ t ta tb ys ya yb,
      exec (.rsProcess c (a ++ b)) s = .next t ∧ t.reply = .samples ys ∧
      exec (.rsProcess c a) s = .next ta ∧ ta.reply = .samples ya ∧
      exec (.rsProcess c b) ta = .next tb ∧ tb.reply = .samples yb ∧
      ys = ya ++ yb ∧ { tb with reply := t.reply } = t

/-- 44_resampler.md R291, R292: RS_SET_FACTOR refuses what is outside [-9, 9], does nothing for the value already there, and else changes the
factor and resets every tail and phase; RS_RESET resets them and keeps the factor. -/
def Obligations.FactorAndReset : Prop :=
  ∀ (s : State) (k : Int),
    let cleared := s.chans.map (fun ch => { ch with rs := { tail := List.replicate 64 .zero, phase := 0 } })
    (encode (.rsSetFactor k)).word = 0x5100#16 ∧ (encode .rsReset).word = 0x5200#16 ∧
    (s.ready = true →
      (k < -9 ∨ 9 < k → exec (.rsSetFactor k) s = .refused .badFactor) ∧
      (-9 ≤ k → k ≤ 9 → k = s.factor → exec (.rsSetFactor k) s = .next { s with reply := .none }) ∧
      (-9 ≤ k → k ≤ 9 → k ≠ s.factor →
        exec (.rsSetFactor k) s = .next { s with factor := k, chans := cleared, reply := .none }) ∧
      exec .rsReset s = .next { s with chans := cleared, reply := .none })

/-! ## Arithmetic -/

/-- 00_scope.md R8: a finite sample's bits are a binary64 number's, its value counted in units of 2^-1074, and on finite samples each of
`+`, `-`, `*`, `/` gives the sample nearest to the exact result, ties to even, an exact zero sum +0.0 but for two negative zeros; by
zero, and on infinities and NaNs, what IEEE 754 says. Which NaN results is open (log 6). Numeric `<` is the order of the values, the
infinities at its ends, false on a NaN. The first clauses say what the names of constants and classes of samples stand for. -/
def Obligations.ArithmeticRounds : Prop :=
  (F64.zero.toBits = 0x0000000000000000#64 ∧ F64.one.toBits = 0x3FF0000000000000#64 ∧ F64.two.toBits = 0x4000000000000000#64) ∧
  (∀ x : F64, (F64.neg x).toBits = x.toBits ^^^ 0x8000000000000000#64) ∧
  (∀ (neg : Bool) (m : Fin infMag) (v : NaN),
    F64.signedZero neg = .finite neg 0 ∧
    F64.signedUnits neg m.val = (if neg then -(F64.magUnits m.val : Int) else F64.magUnits m.val) ∧
    F64.isFinite (.finite neg m) = true ∧ F64.isFinite (.inf neg) = false ∧ F64.isFinite (.nan v) = false ∧
    F64.isNaN (.finite neg m) = false ∧ F64.isNaN (.inf neg) = false ∧ F64.isNaN (.nan v) = true ∧
    F64.isZero (.finite neg m) = decide (F64.magUnits m.val = 0) ∧ F64.isZero (.inf neg) = false ∧ F64.isZero (.nan v) = false ∧
    F64.sign (.finite neg m) = neg ∧ F64.sign (.inf neg) = neg) ∧
  (∀ (a b : Bool) (m n : Fin infMag),
    F64.lt (.finite a m) (.finite b n) = decide (F64.signedUnits a m.val < F64.signedUnits b n.val) ∧
    F64.lt (.finite a m) (.inf b) = !b ∧ F64.lt (.inf a) (.finite b n) = a ∧ F64.lt (.inf a) (.inf b) = (a && !b)) ∧
  (∀ x y : F64, x.isNaN = true ∨ y.isNaN = true → F64.lt x y = false) ∧
  (∀ (neg : Bool) (m : Fin infMag),
    let w := (F64.finite neg m).toBits
    let e := (w.extractLsb' 52 11).toNat
    let f := (w.extractLsb' 0 52).toNat
    w.getLsbD 63 = neg ∧ F64.magUnits m.val = (if e = 0 then f else (2 ^ 52 + f) * 2 ^ (e - 1))) ∧
  (∀ (a b : Bool) (m n : Fin infMag),
    let x := F64.finite a m
    let y := F64.finite b n
    let u := F64.signedUnits a m.val
    let v := F64.signedUnits b n.val
    (u + v ≠ 0 → isNearest (decide (u + v < 0)) (u + v).natAbs 1 (F64.add x y)) ∧
    (u + v = 0 → F64.add x y = .signedZero (a && b)) ∧
    (u - v ≠ 0 → isNearest (decide (u - v < 0)) (u - v).natAbs 1 (F64.sub x y)) ∧
    (u - v = 0 → F64.sub x y = .signedZero (a && !b)) ∧
    isNearest (a != b) (u.natAbs * v.natAbs) (2 ^ 1074) (F64.mul x y) ∧
    (v ≠ 0 → isNearest (a != b) (u.natAbs * 2 ^ 1074) v.natAbs (F64.div x y)) ∧
    (v = 0 → u ≠ 0 → F64.div x y = .inf (a != b)) ∧
    (v = 0 → u = 0 → (F64.div x y).isNaN = true)) ∧
  (∀ (a : Bool) (y : F64), y.isFinite = true →
    F64.add (.inf a) y = .inf a ∧ F64.add y (.inf a) = .inf a ∧
    F64.sub (.inf a) y = .inf a ∧ F64.sub y (.inf a) = .inf (!a) ∧
    (y.isZero = false → F64.mul (.inf a) y = .inf (a != y.sign) ∧ F64.mul y (.inf a) = .inf (a != y.sign)) ∧
    (y.isZero = true → (F64.mul (.inf a) y).isNaN = true ∧ (F64.mul y (.inf a)).isNaN = true) ∧
    F64.div (.inf a) y = .inf (a != y.sign) ∧ F64.div y (.inf a) = .signedZero (a != y.sign)) ∧
  (∀ a b : Bool,
    (a = b → F64.add (.inf a) (.inf b) = .inf a ∧ (F64.sub (.inf a) (.inf b)).isNaN = true) ∧
    (a ≠ b → (F64.add (.inf a) (.inf b)).isNaN = true ∧ F64.sub (.inf a) (.inf b) = .inf a) ∧
    F64.mul (.inf a) (.inf b) = .inf (a != b) ∧ (F64.div (.inf a) (.inf b)).isNaN = true) ∧
  (∀ x y : F64, x.isNaN = true ∨ y.isNaN = true →
    (F64.add x y).isNaN = true ∧ (F64.sub x y).isNaN = true ∧ (F64.mul x y).isNaN = true ∧ (F64.div x y).isNaN = true)

end Statements
end

