-- ==== Sys2Proof/Laws/Decode.lean ====
section
/-! SUPPORT. The fields of a command word. -/

namespace Sys2Proof

@[simp] theorem opOf_commandWord (op chan : BitVec 8) : opOf (commandWord op chan) = op := by
  unfold opOf commandWord
  apply BitVec.eq_of_getLsbD_eq
  intro i hi
  rw [BitVec.getLsbD_extractLsb', BitVec.getLsbD_append]
  simp [hi]

@[simp] theorem chanOf_commandWord (op chan : BitVec 8) : chanOf (commandWord op chan) = chan := by
  unfold chanOf commandWord
  apply BitVec.eq_of_getLsbD_eq
  intro i hi
  rw [BitVec.getLsbD_extractLsb', BitVec.getLsbD_append]
  simp [hi]

/-- A command word is its two fields. -/
theorem commandWord_opOf_chanOf (w : BitVec 16) : commandWord (opOf w) (chanOf w) = w := by
  unfold opOf chanOf commandWord
  apply BitVec.eq_of_getLsbD_eq
  intro i hi
  rw [BitVec.getLsbD_append, BitVec.getLsbD_extractLsb', BitVec.getLsbD_extractLsb']
  by_cases h : i < 8
  · simp [h]
  · have h8 : i - 8 < 8 := by omega
    have he : 8 + (i - 8) = i := by omega
    simp [h, h8, he]

end Sys2Proof
end

