-- ==== Sys2Proof/Laws/State.lean ====
section
/-! SUPPORT. One lemma per field per update of the state, true by rfl, so that no proof unfolds a record update. -/

namespace Sys2Proof.Machine

@[simp] theorem State.setChan_ready (s : State) (c : BitVec 8) (ch : Channel) : (s.setChan c ch).ready = s.ready := rfl
@[simp] theorem State.setChan_cr (s : State) (c : BitVec 8) (ch : Channel) : (s.setChan c ch).cr = s.cr := rfl
@[simp] theorem State.setChan_res (s : State) (c : BitVec 8) (ch : Channel) : (s.setChan c ch).res = s.res := rfl
@[simp] theorem State.setChan_chans (s : State) (c : BitVec 8) (ch : Channel) : (s.setChan c ch).chans = s.chans.set c.toNat ch := rfl
@[simp] theorem State.setChan_factor (s : State) (c : BitVec 8) (ch : Channel) : (s.setChan c ch).factor = s.factor := rfl
@[simp] theorem State.setChan_flights (s : State) (c : BitVec 8) (ch : Channel) : (s.setChan c ch).flights = s.flights := rfl
@[simp] theorem State.setChan_tables (s : State) (c : BitVec 8) (ch : Channel) : (s.setChan c ch).tables = s.tables := rfl
@[simp] theorem State.setChan_inbox (s : State) (c : BitVec 8) (ch : Channel) : (s.setChan c ch).inbox = s.inbox := rfl
@[simp] theorem State.setChan_turn (s : State) (c : BitVec 8) (ch : Channel) : (s.setChan c ch).turn = s.turn := rfl
@[simp] theorem State.setChan_reply (s : State) (c : BitVec 8) (ch : Channel) : (s.setChan c ch).reply = s.reply := rfl

@[simp] theorem State.setChan_inFlight (s : State) (c : BitVec 8) (ch : Channel) : (s.setChan c ch).inFlight = s.inFlight := rfl

@[simp] theorem State.answer_inFlight (s : State) (r : Reply) : (s.answer r).inFlight = s.inFlight := rfl
@[simp] theorem State.answer_snapshot (s : State) (r : Reply) : (s.answer r).snapshot = s.snapshot := rfl
@[simp] theorem State.snapshot_channels (s : State) : s.snapshot.channels = s.chans.map Channel.settings := rfl
@[simp] theorem State.snapshot_factor (s : State) : s.snapshot.factor = s.factor := rfl
@[simp] theorem Channel.settings_gain (ch : Channel) : ch.settings.gain = ch.gain := rfl
@[simp] theorem Channel.settings_offset (ch : Channel) : ch.settings.offset = ch.offset := rfl
@[simp] theorem Channel.settings_kind (ch : Channel) : ch.settings.kind = ch.filter.kind := rfl
@[simp] theorem Channel.settings_params (ch : Channel) : ch.settings.params = ch.filter.params := rfl
@[simp] theorem State.answer_ready (s : State) (r : Reply) : (s.answer r).ready = s.ready := rfl
@[simp] theorem State.answer_cr (s : State) (r : Reply) : (s.answer r).cr = s.cr := rfl
@[simp] theorem State.answer_res (s : State) (r : Reply) : (s.answer r).res = s.res := rfl
@[simp] theorem State.answer_chans (s : State) (r : Reply) : (s.answer r).chans = s.chans := rfl
@[simp] theorem State.answer_factor (s : State) (r : Reply) : (s.answer r).factor = s.factor := rfl
@[simp] theorem State.answer_flights (s : State) (r : Reply) : (s.answer r).flights = s.flights := rfl
@[simp] theorem State.answer_tables (s : State) (r : Reply) : (s.answer r).tables = s.tables := rfl
@[simp] theorem State.answer_inbox (s : State) (r : Reply) : (s.answer r).inbox = s.inbox := rfl
@[simp] theorem State.answer_turn (s : State) (r : Reply) : (s.answer r).turn = s.turn := rfl
@[simp] theorem State.answer_reply (s : State) (r : Reply) : (s.answer r).reply = r := rfl

@[simp] theorem State.setRing_ready (s : State) (c : BitVec 8) (ch : Channel) (r : Ring) : (s.setRing c ch r).ready = s.ready := rfl
@[simp] theorem State.setRing_cr (s : State) (c : BitVec 8) (ch : Channel) (r : Ring) : (s.setRing c ch r).cr = s.cr := rfl
@[simp] theorem State.setRing_res (s : State) (c : BitVec 8) (ch : Channel) (r : Ring) : (s.setRing c ch r).res = s.res := rfl
@[simp] theorem State.setRing_chans (s : State) (c : BitVec 8) (ch : Channel) (r : Ring) : (s.setRing c ch r).chans = s.chans.set c.toNat { ch with ring := r } := rfl
@[simp] theorem State.setRing_factor (s : State) (c : BitVec 8) (ch : Channel) (r : Ring) : (s.setRing c ch r).factor = s.factor := rfl
@[simp] theorem State.setRing_flights (s : State) (c : BitVec 8) (ch : Channel) (r : Ring) : (s.setRing c ch r).flights = s.flights := rfl
@[simp] theorem State.setRing_tables (s : State) (c : BitVec 8) (ch : Channel) (r : Ring) : (s.setRing c ch r).tables = s.tables := rfl
@[simp] theorem State.setRing_inbox (s : State) (c : BitVec 8) (ch : Channel) (r : Ring) : (s.setRing c ch r).inbox = s.inbox := rfl
@[simp] theorem State.setRing_turn (s : State) (c : BitVec 8) (ch : Channel) (r : Ring) : (s.setRing c ch r).turn = s.turn := rfl
@[simp] theorem State.setRing_reply (s : State) (c : BitVec 8) (ch : Channel) (r : Ring) : (s.setRing c ch r).reply = s.reply := rfl

@[simp] theorem State.setFilter_ready (s : State) (c : BitVec 8) (ch : Channel) (f : DFilter) : (s.setFilter c ch f).ready = s.ready := rfl
@[simp] theorem State.setFilter_cr (s : State) (c : BitVec 8) (ch : Channel) (f : DFilter) : (s.setFilter c ch f).cr = s.cr := rfl
@[simp] theorem State.setFilter_res (s : State) (c : BitVec 8) (ch : Channel) (f : DFilter) : (s.setFilter c ch f).res = s.res := rfl
@[simp] theorem State.setFilter_chans (s : State) (c : BitVec 8) (ch : Channel) (f : DFilter) : (s.setFilter c ch f).chans = s.chans.set c.toNat { ch with filter := f } := rfl
@[simp] theorem State.setFilter_factor (s : State) (c : BitVec 8) (ch : Channel) (f : DFilter) : (s.setFilter c ch f).factor = s.factor := rfl
@[simp] theorem State.setFilter_flights (s : State) (c : BitVec 8) (ch : Channel) (f : DFilter) : (s.setFilter c ch f).flights = s.flights := rfl
@[simp] theorem State.setFilter_tables (s : State) (c : BitVec 8) (ch : Channel) (f : DFilter) : (s.setFilter c ch f).tables = s.tables := rfl
@[simp] theorem State.setFilter_inbox (s : State) (c : BitVec 8) (ch : Channel) (f : DFilter) : (s.setFilter c ch f).inbox = s.inbox := rfl
@[simp] theorem State.setFilter_turn (s : State) (c : BitVec 8) (ch : Channel) (f : DFilter) : (s.setFilter c ch f).turn = s.turn := rfl
@[simp] theorem State.setFilter_reply (s : State) (c : BitVec 8) (ch : Channel) (f : DFilter) : (s.setFilter c ch f).reply = s.reply := rfl

@[simp] theorem State.construct_ready (s : State) (p : Params) : (s.construct p).ready = true := rfl
@[simp] theorem State.construct_cr (s : State) (p : Params) : (s.construct p).cr = p := rfl
@[simp] theorem State.construct_res (s : State) (p : Params) : (s.construct p).res = [] := rfl
@[simp] theorem State.construct_chans (s : State) (p : Params) : (s.construct p).chans = p.caps.map Channel.reset := rfl
@[simp] theorem State.construct_factor (s : State) (p : Params) : (s.construct p).factor = 0 := rfl
@[simp] theorem State.construct_flights (s : State) (p : Params) : (s.construct p).flights = [] := rfl
@[simp] theorem State.construct_tables (s : State) (p : Params) : (s.construct p).tables = s.tables := rfl
@[simp] theorem State.construct_inbox (s : State) (p : Params) : (s.construct p).inbox = s.inbox := rfl
@[simp] theorem State.construct_turn (s : State) (p : Params) : (s.construct p).turn = s.turn := rfl
@[simp] theorem State.construct_reply (s : State) (p : Params) : (s.construct p).reply = .none := rfl

-- raising the exception
@[simp] theorem raiseDiscard_ready (s : State) : (raiseDiscard s).ready = s.ready := rfl
@[simp] theorem raiseDiscard_cr (s : State) : (raiseDiscard s).cr = s.cr := rfl
@[simp] theorem raiseDiscard_res (s : State) : (raiseDiscard s).res = [] := rfl
@[simp] theorem raiseDiscard_chans (s : State) : (raiseDiscard s).chans = s.chans := rfl
@[simp] theorem raiseDiscard_factor (s : State) : (raiseDiscard s).factor = s.factor := rfl
@[simp] theorem raiseDiscard_flights (s : State) : (raiseDiscard s).flights = s.flights := rfl
@[simp] theorem raiseDiscard_tables (s : State) : (raiseDiscard s).tables = s.tables := rfl
@[simp] theorem raiseDiscard_inbox (s : State) : (raiseDiscard s).inbox = s.inbox := rfl
@[simp] theorem raiseDiscard_turn (s : State) : (raiseDiscard s).turn = s.turn := rfl
@[simp] theorem raiseDiscard_reply (s : State) : (raiseDiscard s).reply = .parsed (List.replicate s.cr.nch []) .discarded := rfl

-- presenting a word
@[simp] theorem presentWord_ready (s : State) (w : BitVec 16) : (presentWord s w).ready = s.ready := rfl
@[simp] theorem presentWord_cr (s : State) (w : BitVec 16) : (presentWord s w).cr = s.cr := rfl
@[simp] theorem presentWord_res (s : State) (w : BitVec 16) : (presentWord s w).res = s.res := rfl
@[simp] theorem presentWord_chans (s : State) (w : BitVec 16) : (presentWord s w).chans = s.chans := rfl
@[simp] theorem presentWord_factor (s : State) (w : BitVec 16) : (presentWord s w).factor = s.factor := rfl
@[simp] theorem presentWord_flights (s : State) (w : BitVec 16) : (presentWord s w).flights = s.flights.filter (fun f => f.agent != s.turn) := rfl
@[simp] theorem presentWord_tables (s : State) (w : BitVec 16) : (presentWord s w).tables = s.tables := rfl
@[simp] theorem presentWord_inbox (s : State) (w : BitVec 16) : (presentWord s w).inbox = .issue s.turn (plainCommand w) :: s.inbox := rfl
@[simp] theorem presentWord_turn (s : State) (w : BitVec 16) : (presentWord s w).turn = s.turn := rfl
@[simp] theorem presentWord_reply (s : State) (w : BitVec 16) : (presentWord s w).reply = s.reply := rfl

-- one update after another
@[simp] theorem State.answer_answer (s : State) (r q : Reply) : (s.answer r).answer q = s.answer q := rfl

theorem State.answer_reply_self (s : State) : s.answer s.reply = s := rfl

@[simp] theorem State.chan?_answer (s : State) (r : Reply) (c : BitVec 8) : (s.answer r).chan? c = s.chan? c := rfl

@[simp] theorem State.cap_answer (s : State) (r : Reply) (c : BitVec 8) : (s.answer r).cap c = s.cap c := rfl

@[simp] theorem State.cap_setChan (s : State) (c d : BitVec 8) (ch : Channel) : (s.setChan c ch).cap d = s.cap d := rfl

-- registers of a RingBuffer
@[simp] theorem Ring.add_buf (cap : Nat) (r : Ring) (v : F64) : (r.add cap v).buf = r.buf.set r.head (some v) := rfl
@[simp] theorem Ring.add_head (cap : Nat) (r : Ring) (v : F64) : (r.add cap v).head = (r.head + 1) % cap := rfl
@[simp] theorem Ring.add_count (cap : Nat) (r : Ring) (v : F64) : (r.add cap v).count = min (r.count + 1) cap := rfl
@[simp] theorem Ring.add_total (cap : Nat) (r : Ring) (v : F64) : (r.add cap v).total = r.total + 1 := rfl
@[simp] theorem Ring.clear_buf (r : Ring) : r.clear.buf = r.buf.map (fun _ => none) := rfl
@[simp] theorem Ring.clear_head (r : Ring) : r.clear.head = 0 := rfl
@[simp] theorem Ring.clear_count (r : Ring) : r.clear.count = 0 := rfl
@[simp] theorem Ring.clear_total (r : Ring) : r.clear.total = r.total := rfl

-- delay registers
@[simp] theorem Delay.shift_x1 (d : Delay) (x y : F64) : (d.shift x y).x1 = x := rfl
@[simp] theorem Delay.shift_x2 (d : Delay) (x y : F64) : (d.shift x y).x2 = d.x1 := rfl
@[simp] theorem Delay.shift_y1 (d : Delay) (x y : F64) : (d.shift x y).y1 = y := rfl
@[simp] theorem Delay.shift_y2 (d : Delay) (x y : F64) : (d.shift x y).y2 = d.y1 := rfl

/-- A channel that is there is below `NCH` and in the list. -/
theorem State.chan?_eq_some {s : State} {c : BitVec 8} {ch : Channel} :
    s.chan? c = some ch ↔ c.toNat < s.cr.nch ∧ s.chans[c.toNat]? = some ch := by
  unfold State.chan?
  split <;> simp_all

/-- Writing a channel that is there, then reading it. -/
theorem State.chan?_setChan_self {s : State} {c : BitVec 8} {ch new : Channel} (h : s.chan? c = some ch) :
    (s.setChan c new).chan? c = some new := by
  obtain ⟨hn, hc⟩ := State.chan?_eq_some.mp h
  obtain ⟨hl, -⟩ := List.getElem?_eq_some_iff.mp hc
  exact State.chan?_eq_some.mpr ⟨hn, by simp [hl]⟩

/-- Writing a channel leaves every other one. -/
theorem State.chan?_setChan_of_ne {s : State} {c d : BitVec 8} {new : Channel} (h : d ≠ c) :
    (s.setChan c new).chan? d = s.chan? d := by
  have hne : c.toNat ≠ d.toNat := fun e => h (BitVec.eq_of_toNat_eq e.symm)
  simp [State.chan?, List.getElem?_set_ne hne]

end Sys2Proof.Machine
end

