-- ==== Sys2Proof/Laws/Ops.lean ====
section
/-! SUPPORT. For each shared operation one lemma that says once everything it can do. -/

namespace Sys2Proof.Machine

/-- `whenReady` answers a next state only of a ready instance. -/
theorem whenReady_next {s t : State} {go : Result} (h : whenReady s go = .next t) : s.ready = true ∧ go = .next t := by
  unfold whenReady at h
  split at h
  · exact ⟨‹_›, h⟩
  · cases h

theorem whenReady_of_ready {s : State} (h : s.ready = true) (go : Result) : whenReady s go = go := by
  simp [whenReady, h]

/-- `onChannel` answers a next state only of a ready instance whose channel is there. -/
theorem onChannel_next {s t : State} {c : BitVec 8} {go : Channel → Result} (h : onChannel s c go = .next t) :
    s.ready = true ∧ ∃ ch, s.chan? c = some ch ∧ go ch = .next t := by
  obtain ⟨hr, hg⟩ := whenReady_next h
  split at hg
  · exact ⟨hr, _, ‹_›, hg⟩
  · cases hg

theorem onChannel_of_chan {s : State} {c : BitVec 8} {ch : Channel} (hr : s.ready = true) (hc : s.chan? c = some ch)
    (go : Channel → Result) : onChannel s c go = go ch := by
  simp [onChannel, whenReady, hr, hc]

theorem onChannel_of_none {s : State} {c : BitVec 8} (hr : s.ready = true) (hc : s.chan? c = none)
    (go : Channel → Result) : onChannel s c go = .refused .noSuchChannel := by
  simp [onChannel, whenReady, hr, hc]

/-- `Ring.append` answers the repeated add, exactly when `TOTAL` has room. -/
theorem Ring.append_eq_some {cap : Nat} {r q : Ring} {vs : List F64} :
    r.append cap vs = some q ↔ r.total.toNat + vs.length < 2 ^ 64 ∧ q = vs.foldl (Ring.add cap) r := by
  unfold Ring.append
  split <;> simp_all [eq_comm]

theorem Ring.append_eq_none {cap : Nat} {r : Ring} {vs : List F64} :
    r.append cap vs = none ↔ 2 ^ 64 ≤ r.total.toNat + vs.length := by
  unfold Ring.append
  split <;> simp_all

/-- After the first `SYS_RESET` the blocks between their steps are the records. -/
@[simp] theorem State.inFlight_of_ready {s : State} (h : s.ready = true) : s.inFlight = s.flights := by
  simp [State.inFlight, h]

/-- Before it there are none. -/
@[simp] theorem State.inFlight_of_not_ready {s : State} (h : s.ready = false) : s.inFlight = [] := by
  simp [State.inFlight, h]

/-- A record left after a commit is one that was there: the same agent and snapshot, and no channel that was not pending. -/
theorem mem_dropPending {a : Nat} {c : BitVec 8} {fs : List Flight} {f : Flight} (h : f ∈ dropPending a c fs) :
    ∃ g ∈ fs, f.agent = g.agent ∧ f.snapshot = g.snapshot ∧ f.pending.Sublist g.pending := by
  induction fs with
  | nil => cases h
  | cons g rest ih =>
      have there : f ∈ rest → ∃ k ∈ g :: rest, f.agent = k.agent ∧ f.snapshot = k.snapshot ∧ f.pending.Sublist k.pending :=
        fun hf => ⟨f, .tail _ hf, rfl, rfl, .refl _⟩
      simp only [dropPending] at h
      split at h
      · split at h
        · exact there h
        · rcases List.mem_cons.1 h with rfl | hf
          · exact ⟨g, .head _, rfl, rfl, List.eraseP_sublist⟩
          · exact there hf
      · rcases List.mem_cons.1 h with rfl | hf
        · exact ⟨f, .head _, rfl, rfl, .refl _⟩
        · obtain ⟨k, hk, same⟩ := ih hf
          exact ⟨k, .tail _ hk, same⟩

section Pending

variable {flights before after : List Flight} {f : Flight} {a : Nat} {c : BitVec 8} {values : List F64}
  {pre post : List (BitVec 8 × List F64)}

/-- The agent's first record is the one found. -/
theorem PendingAt.find?_agent (h : PendingAt flights before f after a pre c values post) :
    flights.find? (fun g => g.agent == a) = some f := by
  rw [h.record, List.find?_append, List.find?_eq_none.2 (by simpa using h.first)]
  simp [h.agent]

theorem PendingAt.findPending (h : PendingAt flights before f after a pre c values post) :
    findPending a c flights = some values := by
  unfold Machine.findPending
  rw [h.find?_agent, Option.bind_some, h.entry, List.find?_append, List.find?_eq_none.2 (by simpa using h.fresh)]
  simp

theorem PendingAt.nextPending (h : PendingAt flights before f after a [] c values post) :
    nextPending a flights = some c := by
  unfold Machine.nextPending
  rw [h.find?_agent, Option.bind_some, h.entry]
  rfl

theorem PendingAt.dropPending (h : PendingAt flights before f after a pre c values post) :
    dropPending a c flights = afterCommit before f after pre post := by
  obtain ⟨rfl, hb, ha, he, hf⟩ := h
  induction before with
  | nil =>
      have left : f.pending.eraseP (fun p => p.1 == c) = pre ++ post := by
        rw [he, List.eraseP_append_right _ (by simpa using hf)]
        simp
      simp only [List.nil_append, Machine.dropPending, ha, if_true, left, afterCommit, List.isEmpty_iff]
  | cons g rest ih =>
      have := ih (fun k hk => hb k (.tail _ hk))
      simp only [List.cons_append, Machine.dropPending, hb g (.head _), if_false, this, afterCommit]
      split <;> rfl

end Pending

/-- A commit step does nothing, or appends the array pending for the channel and drops it. -/
theorem commitStep_next {s t : State} {a : Nat} {c : BitVec 8} (h : commitStep s a c = .next t) :
    (findPending a c s.inFlight = none ∧ t = s) ∨
    ∃ values ch r, findPending a c s.flights = some values ∧ s.ready = true ∧ s.chan? c = some ch ∧
      ch.ring.append (s.cap c) values = some r ∧
      t = { s.setChan c { ch with ring := r } with flights := dropPending a c s.flights } := by
  unfold commitStep at h
  split at h
  · exact .inl ⟨‹_›, by cases h; rfl⟩
  · obtain ⟨hr, ch, hc, hg⟩ := onChannel_next h
    split at hg
    · cases hg
    · rename_i hf _ _ _
      exact .inr ⟨_, ch, _, State.inFlight_of_ready hr ▸ hf, hr, hc, ‹_›, by cases hg; rfl⟩

/-- With no event left the block waits, or makes the first pending commit step. -/
theorem drainStep_next {s t : State} (h : drainStep s = .next t) :
    t = s ∨ ∃ f rest p more, s.inFlight = f :: rest ∧ f.pending = p :: more ∧ commitStep s f.agent p.1 = .next t := by
  unfold drainStep at h
  split at h
  · cases h; exact .inl rfl
  · rename_i f rest hf
    split at h
    · cases h; exact .inl rfl
    · rename_i p more hp
      exact .inr ⟨f, rest, p, more, hf, hp, h⟩

/-- A parse raises the exception, or stores the capped residue and answers the frames. -/
theorem parseWith_next {decoder : Params → List Byte → List (List F64) × List Byte} {chunk : List Byte} {fault : Bool}
    {s t : State} (h : parseWith decoder chunk fault s = .next t) :
    s.ready = true ∧ chunk.length ≤ s.cr.chunkMax ∧
    ((fault = true ∧ t = raiseDiscard s) ∨
     (fault = false ∧ t = { s with
        res := capResidue s.cr.residueCap (decoder s.cr (s.res ++ chunk)).2
        reply := .parsed (byChannel s.cr.nch (decoder s.cr (s.res ++ chunk)).1) .ok })) := by
  obtain ⟨hr, hg⟩ := whenReady_next h
  split at hg
  · cases hg
  · refine ⟨hr, by omega, ?_⟩
    cases fault
    · exact .inr ⟨rfl, by simpa using hg.symm⟩
    · exact .inl ⟨rfl, by simpa using hg.symm⟩

/-- The end of a filter operation always answers. -/
theorem finishApply_eq (s : State) (c : BitVec 8) (ch : Channel) (o : DFilter × F64) :
    finishApply s c ch o = .next ((s.setFilter c ch o.1).answer (.sample o.2)) := rfl

/-- The end of a resampler operation always answers. -/
theorem finishResample_eq (s : State) (c : BitVec 8) (ch : Channel) (o : Resamp × List F64) :
    finishResample s c ch o = .next ((s.setChan c { ch with rs := o.1 }).answer (.samples o.2)) := rfl

/-- One step: a drained state, a commit step, or an operation. -/
theorem step_next {s t : State} (h : step s = .next t) :
    (s.inbox = [] ∧ drainStep s = .next t) ∨
    (∃ a c rest, s.inbox = .commit a c :: rest ∧ commitStep { s with inbox := rest } a c = .next t) ∨
    (∃ a cmd rest c, s.inbox = .issue a cmd :: rest ∧ nextPending a s.inFlight = some c ∧ commitStep s a c = .next t) ∨
    (∃ a cmd rest i, s.inbox = .issue a cmd :: rest ∧ nextPending a s.inFlight = none ∧ decode cmd = .ok i ∧
      exec i { s with inbox := rest, turn := a } = .next t) := by
  unfold step at h
  split at h
  · exact .inl ⟨‹_›, h⟩
  · rename_i e rest hi
    cases e with
    | commit a c => exact .inr (.inl ⟨a, c, rest, hi, h⟩)
    | issue a cmd =>
        simp only [performEvent] at h
        split at h
        · exact .inr (.inr (.inl ⟨a, cmd, rest, _, hi, ‹_›, h⟩))
        · simp only [performCommand] at h
          split at h
          · cases h
          · exact .inr (.inr (.inr ⟨a, cmd, rest, _, hi, ‹_›, ‹_›, h⟩))

end Sys2Proof.Machine
end

