-- ==== Sys2Proof/Laws/PerInstr.lean ====
section
/-! SUPPORT. Statements made per operation. -/

namespace Sys2Proof.Laws.WordMatchesRow

/-- `match` and `mask` of an operation's row of spec/opcode_table.json (30_encoding.md R118). -/
def row : Instr → BitVec 16 × BitVec 16
  | .sysReset _ => (0x0000, 0xFFFF)
  | .rbAdd _ _ => (0x1000, 0xFF00)
  | .rbAddRange _ _ => (0x1100, 0xFF00)
  | .rbCopyLatest _ _ _ => (0x1200, 0xFF00)
  | .rbNewDataSince _ _ => (0x1300, 0xFF00)
  | .rbClear _ => (0x1400, 0xFF00)
  | .rbCapacity _ => (0x1500, 0xFF00)
  | .rbCount _ => (0x1600, 0xFF00)
  | .fpParse _ _ => (0x2000, 0xFFFF)
  | .fpParseBin _ _ => (0x2000, 0xFFFF)
  | .fpParseAscii _ _ => (0x2000, 0xFFFF)
  | .chProcessBlock _ => (0x3000, 0xFFFF)
  | .chSetCal _ _ _ => (0x3100, 0xFF00)
  | .dfApply _ _ => (0x4000, 0xFF00)
  | .dfApplyNone _ _ => (0x4000, 0xFF00)
  | .dfApplyLp _ _ => (0x4000, 0xFF00)
  | .dfApplyHp _ _ => (0x4000, 0xFF00)
  | .dfApplyMavg _ _ => (0x4000, 0xFF00)
  | .dfApplyMedian _ _ => (0x4000, 0xFF00)
  | .dfApplyNotch _ _ => (0x4000, 0xFF00)
  | .dfApplyBiquad _ _ => (0x4000, 0xFF00)
  | .dfApplyAbs _ _ => (0x4000, 0xFF00)
  | .dfApplySquare _ _ => (0x4000, 0xFF00)
  | .dfApplyInterp _ _ => (0x4000, 0xFF00)
  | .dfReset _ => (0x4100, 0xFF00)
  | .dfKind _ => (0x4200, 0xFF00)
  | .dfParams _ => (0x4300, 0xFF00)
  | .dfSelect _ _ _ => (0x4400, 0xFF00)
  | .rsProcess _ _ => (0x5000, 0xFF00)
  | .rsProcessBypass _ _ => (0x5000, 0xFF00)
  | .rsProcessUp _ _ => (0x5000, 0xFF00)
  | .rsProcessDown _ _ => (0x5000, 0xFF00)
  | .rsSetFactor _ => (0x5100, 0xFFFF)
  | .rsReset => (0x5200, 0xFFFF)

/-- The command word that the encoder writes for an operation is one of its row's words. -/
def Statement (i : Instr) : Prop := (encode i).word &&& (row i).2 = (row i).1

/-- A word of an operation that takes a channel: the mask keeps `op` and leaves `chan` out. -/
theorem channelWord {op : BitVec 8} {w : BitVec 16} (chan : BitVec 8) (h : commandWord op 0 = w) :
    commandWord op chan &&& 0xFF00 = w := by
  subst h
  unfold commandWord
  apply BitVec.eq_of_getLsbD_eq
  intro i hi
  rw [BitVec.getLsbD_and, BitVec.getLsbD_append, BitVec.getLsbD_append]
  interval_cases i <;> simp

theorem sysReset (p : Params) :
    Statement (.sysReset p) :=
  (by decide : commandWord 0x00 0 &&& 0xFFFF = 0x0000)

theorem rbAdd (chan : BitVec 8) (value : F64) :
    Statement (.rbAdd chan value) :=
  channelWord chan (by decide : commandWord 0x10 0 = 0x1000)

theorem rbAddRange (chan : BitVec 8) (values : List F64) :
    Statement (.rbAddRange chan values) :=
  channelWord chan (by decide : commandWord 0x11 0 = 0x1100)

theorem rbCopyLatest (chan : BitVec 8) (n : BitVec 32) (dest : List F64) :
    Statement (.rbCopyLatest chan n dest) :=
  channelWord chan (by decide : commandWord 0x12 0 = 0x1200)

theorem rbNewDataSince (chan : BitVec 8) (cursor : BitVec 64) :
    Statement (.rbNewDataSince chan cursor) :=
  channelWord chan (by decide : commandWord 0x13 0 = 0x1300)

theorem rbClear (chan : BitVec 8) :
    Statement (.rbClear chan) :=
  channelWord chan (by decide : commandWord 0x14 0 = 0x1400)

theorem rbCapacity (chan : BitVec 8) :
    Statement (.rbCapacity chan) :=
  channelWord chan (by decide : commandWord 0x15 0 = 0x1500)

theorem rbCount (chan : BitVec 8) :
    Statement (.rbCount chan) :=
  channelWord chan (by decide : commandWord 0x16 0 = 0x1600)

theorem fpParse (chunk : List Byte) (fault : Bool) :
    Statement (.fpParse chunk fault) :=
  (by decide : commandWord 0x20 0 &&& 0xFFFF = 0x2000)

theorem fpParseBin (chunk : List Byte) (fault : Bool) :
    Statement (.fpParseBin chunk fault) :=
  (by decide : commandWord 0x20 0 &&& 0xFFFF = 0x2000)

theorem fpParseAscii (chunk : List Byte) (fault : Bool) :
    Statement (.fpParseAscii chunk fault) :=
  (by decide : commandWord 0x20 0 &&& 0xFFFF = 0x2000)

theorem chProcessBlock (samples : List (List F64)) :
    Statement (.chProcessBlock samples) :=
  (by decide : commandWord 0x30 0 &&& 0xFFFF = 0x3000)

theorem chSetCal (chan : BitVec 8) (gain offset : F64) :
    Statement (.chSetCal chan gain offset) :=
  channelWord chan (by decide : commandWord 0x31 0 = 0x3100)

theorem dfApply (chan : BitVec 8) (x : F64) :
    Statement (.dfApply chan x) :=
  channelWord chan (by decide : commandWord 0x40 0 = 0x4000)

theorem dfApplyNone (chan : BitVec 8) (x : F64) :
    Statement (.dfApplyNone chan x) :=
  channelWord chan (by decide : commandWord 0x40 0 = 0x4000)

theorem dfApplyLp (chan : BitVec 8) (x : F64) :
    Statement (.dfApplyLp chan x) :=
  channelWord chan (by decide : commandWord 0x40 0 = 0x4000)

theorem dfApplyHp (chan : BitVec 8) (x : F64) :
    Statement (.dfApplyHp chan x) :=
  channelWord chan (by decide : commandWord 0x40 0 = 0x4000)

theorem dfApplyMavg (chan : BitVec 8) (x : F64) :
    Statement (.dfApplyMavg chan x) :=
  channelWord chan (by decide : commandWord 0x40 0 = 0x4000)

theorem dfApplyMedian (chan : BitVec 8) (x : F64) :
    Statement (.dfApplyMedian chan x) :=
  channelWord chan (by decide : commandWord 0x40 0 = 0x4000)

theorem dfApplyNotch (chan : BitVec 8) (x : F64) :
    Statement (.dfApplyNotch chan x) :=
  channelWord chan (by decide : commandWord 0x40 0 = 0x4000)

theorem dfApplyBiquad (chan : BitVec 8) (x : F64) :
    Statement (.dfApplyBiquad chan x) :=
  channelWord chan (by decide : commandWord 0x40 0 = 0x4000)

theorem dfApplyAbs (chan : BitVec 8) (x : F64) :
    Statement (.dfApplyAbs chan x) :=
  channelWord chan (by decide : commandWord 0x40 0 = 0x4000)

theorem dfApplySquare (chan : BitVec 8) (x : F64) :
    Statement (.dfApplySquare chan x) :=
  channelWord chan (by decide : commandWord 0x40 0 = 0x4000)

theorem dfApplyInterp (chan : BitVec 8) (x : F64) :
    Statement (.dfApplyInterp chan x) :=
  channelWord chan (by decide : commandWord 0x40 0 = 0x4000)

theorem dfReset (chan : BitVec 8) :
    Statement (.dfReset chan) :=
  channelWord chan (by decide : commandWord 0x41 0 = 0x4100)

theorem dfKind (chan : BitVec 8) :
    Statement (.dfKind chan) :=
  channelWord chan (by decide : commandWord 0x42 0 = 0x4200)

theorem dfParams (chan : BitVec 8) :
    Statement (.dfParams chan) :=
  channelWord chan (by decide : commandWord 0x43 0 = 0x4300)

theorem dfSelect (chan : BitVec 8) (kind : BitVec 4) (params : List FParam) :
    Statement (.dfSelect chan kind params) :=
  channelWord chan (by decide : commandWord 0x44 0 = 0x4400)

theorem rsProcess (chan : BitVec 8) (x : List F64) :
    Statement (.rsProcess chan x) :=
  channelWord chan (by decide : commandWord 0x50 0 = 0x5000)

theorem rsProcessBypass (chan : BitVec 8) (x : List F64) :
    Statement (.rsProcessBypass chan x) :=
  channelWord chan (by decide : commandWord 0x50 0 = 0x5000)

theorem rsProcessUp (chan : BitVec 8) (x : List F64) :
    Statement (.rsProcessUp chan x) :=
  channelWord chan (by decide : commandWord 0x50 0 = 0x5000)

theorem rsProcessDown (chan : BitVec 8) (x : List F64) :
    Statement (.rsProcessDown chan x) :=
  channelWord chan (by decide : commandWord 0x50 0 = 0x5000)

theorem rsSetFactor (factor : Int) :
    Statement (.rsSetFactor factor) :=
  (by decide : commandWord 0x51 0 &&& 0xFFFF = 0x5100)

theorem rsReset :
    Statement (.rsReset) :=
  (by decide : commandWord 0x52 0 &&& 0xFFFF = 0x5200)

end Sys2Proof.Laws.WordMatchesRow
end

