-- ==== Sys2Proof/Laws/Ring.lean ====
section
/-! SUPPORT. The block's memory, the RingBuffers, keeps its canonical form (10_state.md R26) under every operation on it. -/

namespace Sys2Proof.Machine

/-- What the canonical form says, as a proposition. -/
theorem Ring.wf_iff {cap : Nat} {r : Ring} :
    r.wf cap = true ↔ r.buf.length = cap ∧ r.head < cap ∧ r.count ≤ cap ∧ r.count ≤ r.total.toNat ∧
      ∀ i < cap, ((r.buf.getD i none).isSome ↔ (i + cap + r.count - r.head) % cap < r.count) := by
  simp only [Ring.wf, Bool.and_eq_true, decide_eq_true_eq, List.all_eq_true, List.mem_range, beq_iff_eq, and_assoc]
  have key (a : Bool) (p : Prop) [Decidable p] : a = decide p ↔ (a = true ↔ p) := by cases a <;> simp
  simp only [key]

/-- The remainder of a number below three times the divisor. -/
theorem mod_below_three {x c : Nat} (h : x < 3 * c) :
    (x < c ∧ x % c = x) ∨ (c ≤ x ∧ x < 2 * c ∧ x % c = x - c) ∨ (2 * c ≤ x ∧ x % c = x - 2 * c) := by
  by_cases h1 : x < c
  · exact .inl ⟨h1, Nat.mod_eq_of_lt h1⟩
  · by_cases h2 : x < 2 * c
    · exact .inr (.inl ⟨by omega, h2, by rw [Nat.mod_eq_sub_mod (by omega), Nat.mod_eq_of_lt (by omega)]⟩)
    · refine .inr (.inr ⟨by omega, ?_⟩)
      rw [Nat.mod_eq_sub_mod (by omega), Nat.mod_eq_sub_mod (by omega), Nat.mod_eq_of_lt (by omega)]
      omega

/-- The write index after an add. -/
theorem next_index {cap head : Nat} (h : head < cap) :
    (head + 1 < cap ∧ (head + 1) % cap = head + 1) ∨ (head + 1 = cap ∧ (head + 1) % cap = 0) := by
  by_cases h1 : head + 1 < cap
  · exact .inl ⟨h1, Nat.mod_eq_of_lt h1⟩
  · exact .inr ⟨by omega, by rw [show head + 1 = cap by omega, Nat.mod_self]⟩

theorem Ring.wf_add {cap : Nat} {r : Ring} {v : F64} (h : r.wf cap = true) (ht : r.total.toNat + 1 < 2 ^ 64) :
    (r.add cap v).wf cap = true := by
  obtain ⟨hl, hh, hc, hct, hb⟩ := Ring.wf_iff.mp h
  have htot : (r.total + 1).toNat = r.total.toNat + 1 := by
    rw [BitVec.toNat_add]
    exact Nat.mod_eq_of_lt (by simpa using ht)
  refine Ring.wf_iff.mpr ⟨by simpa using hl, Nat.mod_lt _ (by omega), Nat.min_le_right .., ?_, fun i hi => ?_⟩
  · simp only [Ring.add_count, Ring.add_total, htot]
    omega
  · simp only [Ring.add_buf, Ring.add_head, Ring.add_count]
    have key := hb i hi
    have m1 := mod_below_three (x := i + cap + r.count - r.head) (c := cap) (by omega)
    have m2 := mod_below_three (x := i + cap + min (r.count + 1) cap - (r.head + 1) % cap) (c := cap)
      (by have := next_index hh; omega)
    have hn := next_index hh
    by_cases hih : i = r.head
    · subst hih
      have : ((r.buf.set r.head (some v)).getD r.head none).isSome = true := by simp [List.getD, hl, hh]
      rw [this]
      simp only [true_iff]
      omega
    · have : (r.buf.set r.head (some v)).getD i none = r.buf.getD i none := by
        simp [List.getD, List.getElem?_set_ne (Ne.symm hih)]
      rw [this, key]
      omega

theorem Ring.foldl_add_total {cap : Nat} (vs : List F64) {r : Ring} (ht : r.total.toNat + vs.length < 2 ^ 64) :
    (vs.foldl (Ring.add cap) r).total.toNat = r.total.toNat + vs.length := by
  induction vs generalizing r with
  | nil => rfl
  | cons v vs ih =>
      have htot : (r.total + 1).toNat = r.total.toNat + 1 := by
        rw [BitVec.toNat_add]
        exact Nat.mod_eq_of_lt (by simp at ht ⊢; omega)
      simp only [List.length_cons] at ht ⊢
      rw [List.foldl_cons, ih (by simp only [Ring.add_total, htot]; omega), Ring.add_total, htot]
      omega

theorem Ring.wf_foldl_add {cap : Nat} (vs : List F64) {r : Ring} (h : r.wf cap = true)
    (ht : r.total.toNat + vs.length < 2 ^ 64) : (vs.foldl (Ring.add cap) r).wf cap = true := by
  induction vs generalizing r with
  | nil => exact h
  | cons v vs ih =>
      have htot : (r.total + 1).toNat = r.total.toNat + 1 := by
        rw [BitVec.toNat_add]
        exact Nat.mod_eq_of_lt (by simp at ht ⊢; omega)
      simp only [List.length_cons] at ht
      exact ih (Ring.wf_add h (by omega)) (by simp only [Ring.add_total, htot]; omega)

/-- A range written keeps the canonical form. -/
theorem Ring.wf_append {cap : Nat} {r q : Ring} {vs : List F64} (h : r.wf cap = true) (ha : r.append cap vs = some q) :
    q.wf cap = true := by
  unfold Ring.append at ha
  split at ha
  · cases ha; exact Ring.wf_foldl_add vs h ‹_›
  · cases ha

/-- A clear keeps the canonical form. -/
theorem Ring.wf_clear {cap : Nat} {r : Ring} (h : r.wf cap = true) : r.clear.wf cap = true := by
  obtain ⟨hl, hh, -, -, -⟩ := Ring.wf_iff.mp h
  refine Ring.wf_iff.mpr ⟨by simpa using hl, by simp; omega, by simp, by simp, fun i hi => ?_⟩
  simp [List.getD, hl, hi]

/-- An empty RingBuffer has the canonical form. -/
theorem Ring.wf_reset {cap : Nat} (h : 1 ≤ cap) : (Ring.reset cap).wf cap = true := by
  refine Ring.wf_iff.mpr ⟨by simp [Ring.reset], by simp [Ring.reset]; omega, by simp [Ring.reset], by simp [Ring.reset],
    fun i hi => ?_⟩
  simp [Ring.reset, List.getD, hi]

/-- The RingBuffers right after reset have the canonical form. -/
theorem reset_rings_wf : ∀ p ∈ List.zip State.reset.cr.caps State.reset.chans, p.2.ring.wf p.1 = true := by decide

end Sys2Proof.Machine
end

