-- ==== Sys2Proof/Laws/Scan.lean ====
section
/-! SUPPORT. What the search of the decoders finds. -/

namespace Sys2Proof.Machine

theorem standsAt_succ (pat : List Byte) (b : Byte) (rest : List Byte) (i : Nat) :
    standsAt pat (b :: rest) (i + 1) ↔ standsAt pat rest i := Iff.rfl

theorem standsAt_zero {pat data : List Byte} : standsAt pat data 0 ↔ pat.isPrefixOf data = true := by
  rw [List.isPrefixOf_iff_prefix, List.prefix_iff_eq_take]
  exact eq_comm

/-- `findAt` answers the leftmost index at which the pattern stands. -/
theorem findAt_eq_some {pat data : List Byte} {p : Nat} :
    findAt pat data = some p ↔ p ≤ data.length ∧ standsAt pat data p ∧ ∀ q < p, ¬ standsAt pat data q := by
  induction data generalizing p with
  | nil =>
      cases pat with
      | nil =>
          simp only [findAt, List.isEmpty_nil, if_true, Option.some.injEq, List.length_nil, Nat.le_zero]
          exact ⟨fun h => ⟨h.symm, by simp [standsAt], fun q hq => by omega⟩, fun h => h.1.symm⟩
      | cons x xs => simp [findAt, standsAt]
  | cons b rest ih =>
      unfold findAt
      by_cases h : pat.isPrefixOf (b :: rest) = true
      · rw [if_pos h]
        cases p with
        | zero => simp [standsAt_zero, h]
        | succ p => simpa using fun _ _ => ⟨0, by omega, standsAt_zero.mpr h⟩
      · rw [if_neg h]
        cases p with
        | zero => simp [standsAt_zero, h]
        | succ p =>
            simp only [Option.map_eq_some_iff, Nat.add_right_cancel_iff, exists_eq_right, ih, List.length_cons,
              Nat.add_le_add_iff_right, standsAt_succ]
            refine and_congr_right fun _ => and_congr_right fun _ => ⟨fun hq q hqp => ?_, fun hq q hqp => hq (q + 1) (by omega)⟩
            cases q with
            | zero => exact fun h0 => h (standsAt_zero.mp h0)
            | succ q => exact hq q (by omega)

/-- `findAt` answers none when the pattern stands nowhere. -/
theorem findAt_eq_none {pat data : List Byte} : findAt pat data = none ↔ ∀ p ≤ data.length, ¬ standsAt pat data p := by
  induction data with
  | nil => cases pat <;> simp [findAt, standsAt]
  | cons b rest ih =>
      unfold findAt
      by_cases h : pat.isPrefixOf (b :: rest) = true
      · simpa [h] using ⟨0, by omega, standsAt_zero.mpr h⟩
      · rw [if_neg h, Option.map_eq_none_iff, ih]
        refine ⟨fun hp p hpl => ?_, fun hp p hpl => hp (p + 1) (by simp; omega)⟩
        cases p with
        | zero => exact fun h0 => h (standsAt_zero.mp h0)
        | succ p => exact hp p (by simp at hpl; omega)

end Sys2Proof.Machine
end

