-- ==== Sys2Proof/WellFormed.lean ====
section
/-! DEFINITION. Which operations are well formed by themselves, without a state: the refusals of 60_exceptions.md R325 that look
at operands only. What depends on the instance (chan < NCH, W_MAX, CHUNK_MAX, NCH arrays, COUNT, TOTAL) the operation checks. -/

namespace Sys2Proof

/-- R325 (a), (f), (g), (h), as far as the operands alone decide them. A window is bounded by `W_MAX`, which only an instance
gives, so here it is bounded by its own size. -/
def Instr.wellFormed : Instr → Bool
  | .sysReset p => p.legal
  | .chProcessBlock samples => blockRectangular samples
  | .dfSelect _ kind [.int w] => filterLegal w.toNat kind [.int w]
  | .dfSelect _ kind ps => filterLegal 0 kind ps
  | .rsSetFactor k => factorLegal k
  | .rbAdd _ _ | .rbAddRange _ _ | .rbCopyLatest _ _ _ | .rbNewDataSince _ _ | .rbClear _ | .rbCapacity _ | .rbCount _
  | .fpParse _ _ | .fpParseBin _ _ | .fpParseAscii _ _ | .chSetCal _ _ _ | .dfApply _ _ | .dfApplyNone _ _
  | .dfApplyLp _ _ | .dfApplyHp _ _ | .dfApplyMavg _ _ | .dfApplyMedian _ _ | .dfApplyNotch _ _ | .dfApplyBiquad _ _
  | .dfApplyAbs _ _ | .dfApplySquare _ _ | .dfApplyInterp _ _ | .dfReset _ | .dfKind _ | .dfParams _
  | .rsProcess _ _ | .rsProcessBypass _ _ | .rsProcessUp _ _ | .rsProcessDown _ _ | .rsReset => true

end Sys2Proof
end

