-- ==== Sys2Proof/Tests/Slice0.lean ====
section
/-! SUPPORT. Tests. Every expected value is the spec's: a word written out from 30_encoding.md R116 and R117, an example of a rule,
a vector of 95_test_vectors.md. The witnesses show states and operands that meet the hypotheses of the statements. -/

set_option Elab.async false

namespace Sys2Proof.Tests

open Sys2Proof.Machine

/-! ## Helpers -/

/-- The step answers a next state. -/
def isNext (r : Result) : Bool := match r with | .next _ => true | _ => false

/-- The next state answered. -/
def after (r : Result) : State := match r with | .next t => t | _ => State.powerOn

theorem next_of {r : Result} (h : isNext r = true) : r = .next (after r) := by
  cases r with
  | next t => rfl
  | fault f => cases f
  | refused q => cases h

/-- A refusal, by its name. -/
def refusal (r : Result) : Option Refusal := match r with | .refused q => some q | _ => none

/-- An integer sample. -/
def n (i : Int) : F64 := F64.ofInt i

/-- A sample by its bits. -/
def b (w : BitVec 64) : F64 := F64.ofBits w

def half : F64 := b 0x3FE0000000000000

/-- Two channels of capacity 3 after SYS_RESET. -/
def two : State := State.powerOn.construct { Params.default with caps := [3, 3] }

/-- `two` in ASCII mode with three channels. -/
def ascii : State := State.powerOn.construct { Params.default with mode := .ascii, nch := 3, caps := [3, 3, 3] }

/-- `two` after RB_ADD_RANGE 0, [1, 2, 3, 4, 5] (R142's example). -/
def full : State := after (exec (.rbAddRange 0 [n 1, n 2, n 3, n 4, n 5]) two)

/-- `two` with a filter on channel 0. -/
def withFilter (f : DFilter) : State := two.setFilter 0 (Channel.reset 3) f

/-- `two` with a factor. -/
def withFactor (k : Int) : State := { two with factor := k }

/-- Channel 0. -/
def chan0 (s : State) : Channel := s.chans.getD 0 (Channel.reset 3)

/-! ## Words -/

theorem test_decode_sys_reset : decode ⟨0b0000000000000000, .construction Params.default⟩ = .ok (.sysReset Params.default) := by
  decide
theorem test_decode_rb_add : decode ⟨0b0001000000000010, .value .one⟩ = .ok (.rbAdd 2 .one) := by decide
theorem test_decode_rb_add_range : decode ⟨0b0001000100000001, .values [.one]⟩ = .ok (.rbAddRange 1 [.one]) := by decide
theorem test_decode_rb_copy_latest : decode ⟨0b0001001000000010, .copy 100 []⟩ = .ok (.rbCopyLatest 2 100 []) := by decide
theorem test_decode_rb_new_data_since : decode ⟨0b0001001100000001, .cursor 3⟩ = .ok (.rbNewDataSince 1 3) := by decide
theorem test_decode_rb_clear : decode ⟨0b0001010000000001, .none⟩ = .ok (.rbClear 1) := by decide
theorem test_decode_rb_capacity : decode ⟨0b0001010111111111, .none⟩ = .ok (.rbCapacity 255) := by decide
theorem test_decode_rb_count : decode ⟨0b0001011000000001, .none⟩ = .ok (.rbCount 1) := by decide
theorem test_decode_fp_parse : decode ⟨0b0010000000000000, .chunk [0xAA] true⟩ = .ok (.fpParse [0xAA] true) := by decide
theorem test_decode_ch_process_block : decode ⟨0b0011000000000000, .block [[], []]⟩ = .ok (.chProcessBlock [[], []]) := by decide
theorem test_decode_ch_set_cal : decode ⟨0b0011000100000001, .calibration .one .zero⟩ = .ok (.chSetCal 1 .one .zero) := by decide
theorem test_decode_df_apply : decode ⟨0b0100000000000001, .value .one⟩ = .ok (.dfApply 1 .one) := by decide
theorem test_decode_df_reset : decode ⟨0b0100000100000001, .none⟩ = .ok (.dfReset 1) := by decide
theorem test_decode_df_kind : decode ⟨0b0100001000000001, .none⟩ = .ok (.dfKind 1) := by decide
theorem test_decode_df_params : decode ⟨0b0100001100000001, .none⟩ = .ok (.dfParams 1) := by decide
theorem test_decode_df_select : decode ⟨0b0100010000000001, .selection 3 [.int 4]⟩ = .ok (.dfSelect 1 3 [.int 4]) := by decide
theorem test_decode_rs_process : decode ⟨0b0101000000000001, .values [.one]⟩ = .ok (.rsProcess 1 [.one]) := by decide
theorem test_decode_rs_set_factor : decode ⟨0b0101000100000000, .factor (-2)⟩ = .ok (.rsSetFactor (-2)) := by decide
theorem test_decode_rs_reset : decode ⟨0b0101001000000000, .none⟩ = .ok .rsReset := by decide
theorem test_decode_reserved_op : decode ⟨0b0110000000000000, .none⟩ = .error .reservedOp := by decide
theorem test_decode_channel_not_zero : decode ⟨0b0101001000000001, .none⟩ = .error .channelNotZero := by decide
theorem test_decode_wrong_operands : decode ⟨0b0001000000000000, .none⟩ = .error .wrongOperands := by decide
/-- The variant rows carry the words of their base rows (R118). -/
theorem test_variant_words :
    [encode (.fpParseBin [] false), encode (.fpParseAscii [] false)].map Command.word = [0x2000, 0x2000] ∧
    [encode (.dfApplyNone 1 .one), encode (.dfApplyLp 1 .one), encode (.dfApplyHp 1 .one), encode (.dfApplyMavg 1 .one),
      encode (.dfApplyMedian 1 .one), encode (.dfApplyNotch 1 .one), encode (.dfApplyBiquad 1 .one),
      encode (.dfApplyAbs 1 .one), encode (.dfApplySquare 1 .one), encode (.dfApplyInterp 1 .one)].map Command.word =
      List.replicate 10 0x4001 ∧
    [encode (.rsProcessBypass 1 []), encode (.rsProcessUp 1 []), encode (.rsProcessDown 1 [])].map Command.word =
      List.replicate 3 0x5001 := by decide
theorem test_table_word : decodeTableWord 16 0x1000 = some (.rbAdd 0 .zero) ∧ decodeTableWord 16 0x6000 = none ∧
    decodeTableWord 24 0x011000 = none := by decide

/-! ## Well-formedness: an ill-formed term for each check -/

theorem test_wf_default : (Instr.sysReset Params.default).wellFormed = true := by decide
theorem test_wf_nch : (Instr.sysReset { Params.default with nch := 0, caps := [] }).wellFormed = false ∧
    (Instr.sysReset { Params.default with nch := 257, caps := List.replicate 257 1, residueCap := 999 }).wellFormed = false := by
  decide +kernel
theorem test_wf_caps : (Instr.sysReset { Params.default with caps := [4] }).wellFormed = false ∧
    (Instr.sysReset { Params.default with caps := [4, 0] }).wellFormed = false := by decide
theorem test_wf_bounds : (Instr.sysReset { Params.default with chunkMax := 0 }).wellFormed = false ∧
    (Instr.sysReset { Params.default with wMax := 0 }).wellFormed = false := by decide
theorem test_wf_binary : (Instr.sysReset { Params.default with marker := [] }).wellFormed = false ∧
    (Instr.sysReset { Params.default with marker := List.replicate 9 1 }).wellFormed = false ∧
    (Instr.sysReset { Params.default with etype := 7 }).wellFormed = false ∧
    (Instr.sysReset { Params.default with delim := 0x0A }).wellFormed = false ∧
    (Instr.sysReset { Params.default with term := [] }).wellFormed = false ∧
    (Instr.sysReset { Params.default with residueCap := 5 }).wellFormed = false ∧
    (Instr.sysReset { Params.default with residueCap := 6 }).wellFormed = true := by decide
theorem test_wf_ascii : (Instr.sysReset { Params.default with mode := .ascii, term := [] }).wellFormed = false ∧
    (Instr.sysReset { Params.default with mode := .ascii, term := [1, 2, 3] }).wellFormed = false ∧
    (Instr.sysReset { Params.default with mode := .ascii, delim := 0x0A }).wellFormed = false ∧
    (Instr.sysReset { Params.default with mode := .ascii, etype := 7 }).wellFormed = false ∧
    (Instr.sysReset { Params.default with mode := .ascii, marker := List.replicate 9 1 }).wellFormed = false ∧
    (Instr.sysReset { Params.default with mode := .ascii, residueCap := 0 }).wellFormed = false ∧
    (Instr.sysReset { Params.default with mode := .ascii, residueCap := 1 }).wellFormed = true := by decide
theorem test_wf_block : (Instr.chProcessBlock [[.one], []]).wellFormed = false := by decide
theorem test_wf_select_kinds : (Instr.dfSelect 0 10 []).wellFormed = false ∧ (Instr.dfSelect 0 15 []).wellFormed = false ∧
    (Instr.dfSelect 0 0 [.int 1]).wellFormed = false ∧ (Instr.dfSelect 0 7 [.int 1]).wellFormed = false ∧
    (Instr.dfSelect 0 8 [.int 1]).wellFormed = false ∧ (Instr.dfSelect 0 1 []).wellFormed = false ∧
    (Instr.dfSelect 0 2 [.int 1]).wellFormed = false := by decide
theorem test_wf_select_values : (Instr.dfSelect 0 1 [.real (.inf false)]).wellFormed = false ∧
    (Instr.dfSelect 0 2 [.real (.nan ⟨false, 0⟩)]).wellFormed = false ∧ (Instr.dfSelect 0 3 [.int 0]).wellFormed = false ∧
    (Instr.dfSelect 0 4 [.int (-1)]).wellFormed = false ∧
    (Instr.dfSelect 0 5 [.real .one, .real .zero, .real .one]).wellFormed = false ∧
    (Instr.dfSelect 0 6 [.real .one, .real .one, .real .one, .real .one, .real (.inf true)]).wellFormed = false ∧
    (Instr.dfSelect 0 9 [.int 0]).wellFormed = false := by decide
theorem test_wf_factor : (Instr.rsSetFactor (-10)).wellFormed = false ∧ (Instr.rsSetFactor 10).wellFormed = false ∧
    (Instr.rsSetFactor (-9)).wellFormed = true := by decide

/-! ## Operations -/

/-- R350's example. -/
theorem test_sys_reset : (exec (.sysReset { Params.default with caps := [3, 3] }) State.powerOn |> after) = two ∧
    refusal (exec (.sysReset { Params.default with nch := 3 }) two) = some .badConstruction := by decide +kernel
/-- R352. -/
theorem test_before_reset : refusal (exec (.rbCount 0) State.powerOn) = some .notReset := by decide +kernel
/-- R141's example. -/
theorem test_rb_add : (chan0 (after (exec (.rbAdd 0 .one) two))).ring = ⟨[some .one, none, none], 1, 1, 1⟩ := by decide +kernel
theorem test_rb_add_absent : refusal (exec (.rbAdd 2 .one) two) = some .noSuchChannel := by decide +kernel
/-- R142's example. -/
theorem test_rb_add_range : (chan0 full).ring = ⟨[some (n 4), some (n 5), some (n 3)], 2, 3, 5⟩ := by decide +kernel
/-- R143's examples. -/
theorem test_rb_copy_latest :
    (after (exec (.rbCopyLatest 0 2 [.zero, .zero, .one]) full)).reply = .copied 2 [n 4, n 5, .one] ∧
    (after (exec (.rbCopyLatest 0 10 [.zero, .zero, .zero]) full)).reply = .copied 3 [n 3, n 4, n 5] := by decide +kernel
theorem test_rb_copy_latest_short : refusal (exec (.rbCopyLatest 0 2 [.zero]) full) = some .destinationTooShort := by
  decide +kernel
/-- R144's examples. -/
theorem test_rb_new_data_since : (after (exec (.rbNewDataSince 0 0) full)).reply = .fresh [n 3, n 4, n 5] 5 ∧
    (after (exec (.rbNewDataSince 0 3) full)).reply = .fresh [n 4, n 5] 5 ∧
    (after (exec (.rbNewDataSince 0 5) full)).reply = .fresh [] 5 ∧
    (after (exec (.rbNewDataSince 0 9) full)).reply = .fresh [] 5 := by decide +kernel
/-- R145's example. -/
theorem test_rb_clear : (chan0 (after (exec (.rbClear 0) full))).ring = ⟨[none, none, none], 0, 0, 5⟩ := by decide +kernel
/-- R146, R147. -/
theorem test_rb_capacity_count : (after (exec (.rbCapacity 0) full)).reply = .capacity 3 ∧
    (after (exec (.rbCount 0) full)).reply = .count 3 := by decide +kernel

/-- R178. -/
def chunk178 : List Byte := [0xAA, 0xAA, 1, 0, 2, 0, 0xAA, 0xAA, 3, 0]

theorem test_fp_parse :
    (after (exec (.fpParse chunk178 false) two)).reply = .parsed [[n 1], [n 2]] .ok ∧
    (after (exec (.fpParse chunk178 false) two)).res = [0xAA, 0xAA, 3, 0] ∧
    (after (execAll [.fpParse chunk178 false, .fpParse [4, 0, 0xAA] false] two)).reply = .parsed [[n 3], [n 4]] .ok ∧
    (after (execAll [.fpParse chunk178 false, .fpParse [4, 0, 0xAA] false] two)).res = [0xAA] := by decide +kernel
/-- Program 4: a discard. -/
theorem test_fp_parse_discard :
    (after (execAll [.fpParse chunk178 false, .fpParse [4, 0] true] two)).reply = .parsed [[], []] .discarded ∧
    (after (execAll [.fpParse chunk178 false, .fpParse [4, 0] true] two)).res = [] := by decide +kernel
theorem test_fp_parse_bin : (after (exec (.fpParseBin [0xAA, 0xAA, 0x34, 0x12, 0xCD, 0xAB] false) two)).reply =
    .parsed [[n 4660], [n 43981]] .ok := by decide +kernel
/-- R183: `1.0,abc,3.0` newline `4,5`. -/
theorem test_fp_parse_ascii :
    (after (exec (.fpParseAscii
      [0x31, 0x2E, 0x30, 0x2C, 0x61, 0x62, 0x63, 0x2C, 0x33, 0x2E, 0x30, 0x0A, 0x34, 0x2C, 0x35] false) ascii)).reply =
      .parsed [[n 1], [.zero], [n 3]] .ok ∧
    (after (exec (.fpParseAscii
      [0x31, 0x2E, 0x30, 0x2C, 0x61, 0x62, 0x63, 0x2C, 0x33, 0x2E, 0x30, 0x0A, 0x34, 0x2C, 0x35] false) ascii)).res =
      [0x34, 0x2C, 0x35] := by decide +kernel
/-- R106's examples, and R110, R111: `-3`, `+.5`, `7.`, `1e3`, `.`, `1e`, `--1`, `-0`, `1e400`, `-1e-400`. -/
theorem test_elements : decodeElem .big 2 [0x34, 0x12] = n 13330 ∧ decodeElem .little 3 [0xFF, 0xFE] = n (-257) ∧
    decodeElem .big 3 [0xFF, 0xFE] = n (-2) ∧ decodeElem .little 0 [0x80] = n 128 ∧ decodeElem .little 1 [0x80] = n (-128) ∧
    decodeElem .little 6 [0, 0, 0x80, 0x3F] = .one := by decide +kernel
theorem test_tokens : num [0x2D, 0x33] = n (-3) ∧ num [0x2B, 0x2E, 0x35] = half ∧ num [0x37, 0x2E] = n 7 ∧
    num [0x31, 0x65, 0x33] = n 1000 ∧ num [0x2E] = .zero ∧ num [0x31, 0x65] = .zero ∧
    num [0x2D, 0x2D, 0x31] = .zero ∧ num [0x2D, 0x30] = .signedZero true ∧
    num [0x31, 0x65, 0x34, 0x30, 0x30] = .inf false ∧ num [0x2D, 0x31, 0x65, 0x2D, 0x34, 0x30, 0x30] = .signedZero true := by
  decide +kernel

/-- R219: calibration, firewall, absolute value; then the commits. A later CH_SET_CAL leaves the block (R215). -/
def stage219 : State :=
  after (execAll [.chSetCal 0 (n 2) (n (-1)), .dfSelect 1 7 [],
    .chProcessBlock [[n 3, .nan ⟨false, 0⟩], [b 0xC004000000000000, .inf false]]] two)

theorem test_ch_process_block :
    stage219.flights = [⟨0, ⟨[⟨n 2, n (-1), 0, []⟩, ⟨.one, .zero, 7, []⟩], 0⟩, [(0, [n 5, .zero]), (1, [b 0x4004000000000000, .zero])]⟩] ∧
    (after (exec (.chSetCal 0 .one .zero) stage219)).flights = stage219.flights := by decide +kernel
theorem test_commit :
    (after (runSteps 2 stage219)).flights = [] ∧
    (after (execAll [.rbCopyLatest 0 4 [.one, .one]] (after (runSteps 2 stage219)))).reply = .copied 2 [n 5, .zero] := by
  decide +kernel
theorem test_ch_set_cal : (chan0 (after (exec (.chSetCal 0 (n 2) (n (-1))) two))).gain = n 2 ∧
    (chan0 (after (exec (.chSetCal 0 (n 2) (n (-1))) two))).offset = n (-1) := by decide +kernel

/-- R233's example: 1, 1, 1 give 0.5, 0.75, 0.875. -/
theorem test_lp : (after (execAll [.dfApply 0 .one, .dfApplyLp 0 .one, .dfApply 0 .one]
    (withFilter (.lp ⟨half, .zero⟩)))).reply = .sample (b 0x3FEC000000000000) := by decide +kernel
/-- R234's example: 0.5, 0.25, 0.125. -/
theorem test_hp : (after (execAll [.dfApply 0 .one, .dfApply 0 .one, .dfApplyHp 0 .one]
    (withFilter (.hp ⟨half, .zero⟩)))).reply = .sample (b 0x3FC0000000000000) := by decide +kernel
/-- R235's example: 3, 6, 9, 12 give 3, 4.5, 6, 9. -/
theorem test_mavg :
    (after (execAll [.dfSelect 0 3 [.int 3], .dfApply 0 (n 3), .dfApplyMavg 0 (n 6)] two)).reply =
      .sample (b 0x4012000000000000) ∧
    (after (execAll [.dfSelect 0 3 [.int 3], .dfApply 0 (n 3), .dfApply 0 (n 6), .dfApply 0 (n 9), .dfApplyMavg 0 (n 12)]
      two)).reply = .sample (n 9) := by decide +kernel
/-- R236's example: 4, 1, 3, 2, 10 give 4, 2.5, 3, 2.5, 2.5. -/
theorem test_median :
    (after (execAll [.dfSelect 0 4 [.int 4], .dfApply 0 (n 4), .dfApplyMedian 0 (n 1)] two)).reply =
      .sample (b 0x4004000000000000) ∧
    (after (execAll [.dfSelect 0 4 [.int 4], .dfApply 0 (n 4), .dfApply 0 (n 1), .dfApply 0 (n 3)] two)).reply =
      .sample (n 3) := by decide +kernel
/-- R237's example: 1, 0, 0 give 1, 0, 0.75. -/
theorem test_notch : (after (execAll [.dfApply 0 .one, .dfApplyNotch 0 .zero, .dfApply 0 .zero]
    (withFilter (.notch ⟨.one, .one, .one, .zero, .zero, b 0x3FD0000000000000, .reset⟩)))).reply =
      .sample (b 0x3FE8000000000000) := by decide +kernel
/-- R238's example: 1, 0, 0 give 0.5, 0.5, 0.25. -/
theorem test_biquad : (after (execAll [.dfApply 0 .one, .dfApplyBiquad 0 .zero, .dfApply 0 .zero]
    (withFilter (.biquad ⟨half, b 0x3FD0000000000000, b 0x3FC0000000000000, b 0xBFE0000000000000, b 0x3FD0000000000000,
      .reset⟩)))).reply = .sample (b 0x3FD0000000000000) := by decide +kernel
/-- R232, R239, R240. -/
theorem test_pointwise : (after (exec (.dfApplyNone 0 half) two)).reply = .sample half ∧
    (after (exec (.dfApplyAbs 0 (b 0xC004000000000000)) (withFilter .abs))).reply = .sample (b 0x4004000000000000) ∧
    (after (exec (.dfApplySquare 0 (n (-3))) (withFilter .square))).reply = .sample (n 9) := by decide +kernel
/-- R241's example, NDEC = 2: 10, 20, 30, 40, 50 give 10, 10, 10, 20, 30. -/
theorem test_interp :
    (after (execAll [.dfSelect 0 9 [.int 2], .dfApply 0 (n 10), .dfApply 0 (n 20), .dfApplyInterp 0 (n 30)] two)).reply =
      .sample (n 10) ∧
    (after (execAll [.dfSelect 0 9 [.int 2], .dfApply 0 (n 10), .dfApply 0 (n 20), .dfApply 0 (n 30), .dfApply 0 (n 40)]
      two)).reply = .sample (n 20) := by decide +kernel
/-- R242's example. -/
theorem test_df_reset : (after (execAll [.dfApply 0 .one, .dfApply 0 .one, .dfReset 0, .dfApply 0 .one]
    (withFilter (.lp ⟨half, .zero⟩)))).reply = .sample half := by decide +kernel
/-- R245's example. -/
theorem test_df_select : (after (execAll [.dfSelect 1 4 [.int 3], .dfKind 1] two)).reply = .kind 4 ∧
    (after (execAll [.dfSelect 1 4 [.int 3], .dfParams 1] two)).reply = .params [.int 3] ∧
    refusal (exec (.dfSelect 1 4 [.int 17]) two) = some .badFilter := by decide +kernel

/-- R286's example. -/
theorem test_rs_bypass : (after (exec (.rsProcessBypass 0 [n 1, n 2]) two)).reply = .samples [n 1, n 2] := by decide +kernel
/-- R287's example, its first two outputs. -/
theorem test_rs_up : (after (exec (.rsProcessUp 0 [.one]) (withFactor 1))).reply =
    .samples [b 0x3F58C9D99860DCBB, b 0xBF314D337DAAD84E] := by decide +kernel
/-- R288's example. -/
theorem test_rs_down : (after (exec (.rsProcessDown 0 [.one, .one, .one, .one]) (withFactor (-1)))).reply =
    .samples [b 0x3F48C9D99860DCBB, b 0xBF34D217E79804FE] := by decide +kernel
/-- R291's example, and R292. -/
theorem test_rs_set_factor : (after (execAll [.rsProcess 0 [.one], .rsSetFactor (-2)] (withFactor 1))).factor = -2 ∧
    (chan0 (after (execAll [.rsProcess 0 [.one], .rsSetFactor (-2)] (withFactor 1)))).rs = Resamp.reset ∧
    refusal (exec (.rsSetFactor 10) two) = some .badFactor := by decide +kernel
theorem test_rs_reset : (chan0 (after (execAll [.rsProcess 0 [.one], .rsReset] (withFactor (-1))))).rs = Resamp.reset ∧
    (after (execAll [.rsProcess 0 [.one], .rsReset] (withFactor (-1)))).factor = -1 := by decide +kernel

/-! ## Witnesses: the hypotheses of each statement can be met together, at the boundary of each clause -/

/-- `two` with channel 0 after 2^64 - 2 samples. -/
def nearly : State := two.setRing 0 (Channel.reset 3) { Ring.reset 3 with total := 18446744073709551614 }

/-- `two` with a block of agent 5 in flight. -/
def flying : State := { two with flights := [⟨5, two.snapshot, [(0, [.one, .zero]), (1, [.one])]⟩] }

theorem two_ready : two.ready = true ∧ two.chan? 0 = some (Channel.reset 3) ∧ two.chan? 1 = some (Channel.reset 3) := by
  decide +kernel

theorem witness_SysResetConstructs :
    Params.legal { Params.default with nch := 256, caps := List.replicate 256 1, residueCap := 514 } = true ∧
    Params.legal { Params.default with nch := 257, caps := List.replicate 257 1, residueCap := 516 } = false := by
  decide +kernel
theorem witness_LegalConstruction :
    Params.legal { Params.default with residueCap := 6, chunkMax := 1, wMax := 1, caps := [1, 1] } = true ∧
    Params.legal { Params.default with mode := .ascii, residueCap := 1 } = true ∧
    Params.legal { Params.default with mode := .ascii, residueCap := 1, etype := 7 } = false := by decide

/-- A state before the first SYS_RESET that holds a record of agent 5, with an operation of that agent presented. -/
def unready (i : Instr) : State := { flying with ready := false, inbox := [.issue 5 (encode i)] }

theorem witness_RefusedBeforeReset : (unready .rsReset).ready = false ∧
    (unready .rsReset).inbox = [.issue 5 (encode .rsReset)] ∧ decode (encode .rsReset) = .ok .rsReset ∧
    (∀ p, Instr.rsReset ≠ .sysReset p) ∧
    (unready (.sysReset Params.default)).inbox = [.issue 5 (encode (.sysReset Params.default))] ∧
    decode (encode (.sysReset Params.default)) = .ok (.sysReset Params.default) ∧ Params.default.legal = true ∧
    refusal (step (unready .rsReset)) = some .notReset ∧ isNext (step (unready (.sysReset Params.default))) = true :=
  ⟨rfl, rfl, by decide, fun _ h => by (cases h), rfl, by decide, by decide, by decide +kernel, by decide +kernel⟩

/-- `two` with an RB_ADD presented. -/
def presented : State := { two with inbox := [.issue 7 (encode (.rbAdd 0 .one))] }

theorem witness_StepKeepsWellFormed : presented.wf = true ∧ step presented = .next (after (step presented)) :=
  ⟨by decide +kernel, next_of (by decide +kernel)⟩
theorem witness_StepRunsDecoded :
    (presented.inbox = [.issue 7 (encode (.rbAdd 0 .one))] ∧ nextPending 7 presented.inFlight = none ∧
      decode (encode (.rbAdd 0 .one)) = .ok (.rbAdd 0 .one)) ∧
    decode ⟨0x6000, .none⟩ = .error .reservedOp ∧ two.inbox = [] ∧ two.inFlight = [] := by decide +kernel
theorem witness_DecodeEncodeAgree : decode ⟨0x5200, .none⟩ = .ok .rsReset := by decide
theorem witness_ReservedWordsRejected :
    ((0x1700#16).extractLsb' 8 8).toNat ∉
      [0x00, 0x10, 0x11, 0x12, 0x13, 0x14, 0x15, 0x16, 0x20, 0x30, 0x31, 0x40, 0x41, 0x42, 0x43, 0x44, 0x50, 0x51, 0x52] ∧
    ((0x5201#16).extractLsb' 8 8).toNat ∈ [0x00, 0x20, 0x30, 0x51, 0x52] ∧ (0x5201#16).extractLsb' 0 8 ≠ 0 := by decide
theorem witness_AbsentChannelRefused :
    channelOf (.rbClear 2) = some 2 ∧ two.ready = true ∧ two.cr.nch ≤ (2 : BitVec 8).toNat := by decide +kernel
theorem witness_ChannelOperationsAreLocal : channelOf (.rbAdd 0 .one) = some 0 ∧
    exec (.rbAdd 0 .one) two = .next (after (exec (.rbAdd 0 .one) two)) ∧ (1 : BitVec 8) ≠ 0 :=
  ⟨rfl, next_of (by decide +kernel), by decide⟩
theorem witness_OnlyNamedOperationsWrite : isSysReset (.rbCount 0) = false ∧
    exec (.rbCount 0) two = .next (after (exec (.rbCount 0) two)) ∧ writesResidue (.rbCount 0) = false ∧
    writesFactor (.rbCount 0) = false ∧ writesFlights (.rbCount 0) = false ∧ writesRing (.rbCount 0) = false ∧
    writesCalibration (.rbCount 0) = false ∧ writesFilter (.rbCount 0) = false ∧ writesResampler (.rbCount 0) = false ∧
    two.chan? 1 = some (Channel.reset 3) :=
  ⟨rfl, next_of (by decide +kernel), rfl, rfl, rfl, rfl, rfl, rfl, rfl, two_ready.2.2⟩
theorem witness_TotalNeverFalls : step presented = .next (after (step presented)) ∧
    (∀ agent cmd rest p, presented.inbox = .issue agent cmd :: rest → decode cmd ≠ .ok (.sysReset p)) ∧
    presented.chan? 0 = some (Channel.reset 3) := by
  refine ⟨next_of (by decide +kernel), fun agent cmd rest p h => ?_, by decide +kernel⟩
  cases h
  intro h
  cases h
theorem witness_RbAddAppends : nearly.ready = true ∧
    nearly.chan? 0 = some { Channel.reset 3 with ring := { Ring.reset 3 with total := 18446744073709551614 } } ∧
    (18446744073709551614 : BitVec 64).toNat + 1 < 2 ^ 64 := by decide +kernel
theorem witness_RbAddRangeIsRepeatedAdd : nearly.ready = true ∧ nearly.chan? 0 = some (chan0 nearly) ∧
    (chan0 nearly).ring.total.toNat + [F64.one].length < 2 ^ 64 := by decide +kernel
theorem witness_TotalOverflowRefused : nearly.ready = true ∧ nearly.chan? 0 = some (chan0 nearly) ∧
    2 ^ 64 ≤ (chan0 nearly).ring.total.toNat + [F64.one, F64.one].length ∧
    2 ^ 64 ≤ (chan0 (after (exec (.rbAdd 0 .one) nearly))).ring.total.toNat + [F64.one].length ∧
    (after (exec (.rbAdd 0 .one) nearly)).chan? 0 = some (chan0 (after (exec (.rbAdd 0 .one) nearly))) ∧
    ({ nearly with inbox := [.commit 5 0], flights := [⟨5, nearly.snapshot, [(0, [.one, .one])]⟩] } : State).inbox = [.commit 5 0] ∧
    PendingAt [⟨5, nearly.snapshot, [(0, [.one, .one])]⟩] [] ⟨5, nearly.snapshot, [(0, [.one, .one])]⟩ [] 5 [] 0
      [.one, .one] [] :=
  ⟨by decide +kernel, by decide +kernel, by decide +kernel, by decide +kernel, by decide +kernel, by decide +kernel,
    ⟨rfl, by simp, rfl, rfl, by simp⟩⟩
theorem witness_RbCopyLatestCopies : full.ready = true ∧ full.chan? 0 = some (chan0 full) ∧
    (chan0 full).ring.wf (full.cap 0) = true ∧ min (2 : BitVec 32).toNat (chan0 full).ring.count ≤ [F64.one, F64.one].length ∧
    [F64.one].length < min (2 : BitVec 32).toNat (chan0 full).ring.count := by decide +kernel
theorem witness_RbNewDataSinceReads : full.ready = true ∧ full.chan? 0 = some (chan0 full) ∧
    (chan0 full).ring.wf (full.cap 0) = true := by decide +kernel
theorem witness_LatestAreLastWritten : (chan0 two).ring.wf (two.cap 0) = true ∧ (chan0 two).ring.count = 0 ∧
    two.chan? 0 = some (chan0 two) ∧ two.ready = true ∧
    (chan0 two).ring.total.toNat + (writtenValues [.inl .one, .inr [.zero, .one, .zero]]).length < 2 ^ 64 ∧
    min (3 : BitVec 32).toNat (min (writtenValues [.inl .one, .inr [.zero, .one, .zero]]).length (two.cap 0)) ≤
      [F64.one, F64.one, F64.one].length := by decide +kernel
theorem witness_CursorReadsWhatIsNew : full.ready = true ∧ full.chan? 0 = some (chan0 full) ∧
    (chan0 full).ring.wf (full.cap 0) = true ∧
    (chan0 full).ring.total.toNat + (writtenValues [.inl .one, .inr [.zero]]).length < 2 ^ 64 := by decide +kernel
theorem witness_RbClearEmpties : full.ready = true ∧ full.chan? 0 = some (chan0 full) := by decide +kernel
theorem witness_RbCapacityAndCount : full.ready = true ∧ full.chan? 0 = some (chan0 full) ∧
    full.cr.caps[(0 : BitVec 8).toNat]? = some 3 ∧ (chan0 full).ring.wf 3 = true := by decide +kernel
theorem witness_DiscardEmptiesResidue : two.ready = true ∧ (List.replicate 64 (0 : Byte)).length ≤ two.cr.chunkMax := by
  decide +kernel
theorem witness_ParseRuns : two.ready = true ∧ (List.replicate 64 (0 : Byte)).length ≤ two.cr.chunkMax ∧
    two.cr.chunkMax < (List.replicate 65 (0 : Byte)).length ∧ two.cr.mode = .binary ∧ ascii.ready = true ∧
    ascii.cr.mode = .ascii ∧ [(0x31 : Byte)].length ≤ ascii.cr.chunkMax := by decide +kernel
theorem witness_ParseShapeAndResidue :
    exec (.fpParse chunk178 false) two = .next (after (exec (.fpParse chunk178 false) two)) ∧
    (after (exec (.fpParse chunk178 false) two)).reply = .parsed [[n 1], [n 2]] .ok :=
  ⟨next_of (by decide +kernel), by decide +kernel⟩
theorem witness_BinaryScan : two.cr.marker ≠ [] ∧
    (standsAt two.cr.marker [7, 0xAA, 0xAA, 1, 0, 2, 0] 1 ∧
      (∀ q < 1, ¬ standsAt two.cr.marker [7, 0xAA, 0xAA, 1, 0, 2, 0] q) ∧
      1 + two.cr.frameBytes ≤ [(7 : Byte), 0xAA, 0xAA, 1, 0, 2, 0].length) ∧
    (∀ p, standsAt two.cr.marker [7, 0xAA] p → (∀ q < p, ¬ standsAt two.cr.marker [7, 0xAA] q) →
      [(7 : Byte), 0xAA].length < p + two.cr.frameBytes) := by
  refine ⟨by decide, ⟨by decide, by decide, by decide⟩, fun p _ _ => ?_⟩
  have : two.cr.frameBytes = 6 := by decide
  simp only [List.length_cons, List.length_nil, this]
  omega
theorem witness_BinaryStreamDecodes : two.ready = true ∧ two.cr.legal = true ∧ two.cr.mode = .binary ∧
    [(9 : Byte), 0xAA, 0xAA, 1, 0, 2, 0, 0xAA].length ≤ two.cr.chunkMax ∧
    (∀ f ∈ [([(9 : Byte)], [[(1 : Byte), 0], [2, 0]])], f.2.length = two.cr.nch ∧
      (∀ e ∈ f.2, e.length = elemWidth two.cr.etype) ∧
      ∀ q < f.1.length, ¬ standsAt two.cr.marker (f.1 ++ two.cr.marker ++ f.2.flatten) q) ∧
    two.res ++ [(9 : Byte), 0xAA, 0xAA, 1, 0, 2, 0, 0xAA] =
      [([(9 : Byte)], [[(1 : Byte), 0], [2, 0]])].flatMap (fun f => f.1 ++ two.cr.marker ++ f.2.flatten) ++ [0xAA] ∧
    (∀ p, standsAt two.cr.marker [0xAA] p → (∀ q < p, ¬ standsAt two.cr.marker [0xAA] q) →
      [(0xAA : Byte)].length < p + two.cr.frameBytes) := by
  refine ⟨by decide, by decide, by decide, by decide, by decide +kernel, by decide, fun p _ _ => ?_⟩
  have : two.cr.frameBytes = 6 := by decide
  simp only [List.length_cons, List.length_nil, this]
  omega
theorem witness_BinaryChunkBoundary : two.ready = true ∧ two.cr.legal = true ∧ two.cr.mode = .binary ∧
    (List.replicate 3 (0xAA : Byte) ++ List.replicate 61 (0xAA : Byte)).length ≤ two.cr.chunkMax := by decide +kernel
theorem witness_AsciiStreamDecodes : ascii.ready = true ∧ ascii.cr.legal = true ∧ ascii.cr.mode = .ascii ∧
    [(0x31 : Byte), 0x2C, 0x32, 0x0A, 0x33].length ≤ ascii.cr.chunkMax ∧
    (∀ l ∈ [[[(0x31 : Byte)], [0x32]]], l ≠ [] ∧ (∀ t ∈ l, ascii.cr.delim ∉ t) ∧
      ∀ q < (List.intercalate [ascii.cr.delim] l).length,
        ¬ standsAt ascii.cr.term (List.intercalate [ascii.cr.delim] l ++ ascii.cr.term) q) ∧
    ascii.res ++ [(0x31 : Byte), 0x2C, 0x32, 0x0A, 0x33] =
      [[[(0x31 : Byte)], [0x32]]].flatMap (fun l => List.intercalate [ascii.cr.delim] l ++ ascii.cr.term) ++ [0x33] ∧
    ∀ q, ¬ standsAt ascii.cr.term [0x33] q := by
  refine ⟨by decide, by decide, by decide, by decide, by decide +kernel, by decide, fun q => ?_⟩
  match q with
  | 0 => decide
  | q + 1 => simp only [standsAt, List.drop_succ_cons, List.drop_nil]; decide
/-- A line that fills RESIDUE_CAP with its terminator, cut before it. -/
theorem witness_AsciiChunkBoundary : ascii.ready = true ∧ ascii.cr.legal = true ∧ ascii.cr.mode = .ascii ∧
    (List.replicate 63 (0x31 : Byte) ++ [0x0A]).length ≤ ascii.cr.chunkMax ∧
    ∀ line ∈ (linesOf ascii.cr.term ((ascii.res ++ (List.replicate 63 (0x31 : Byte) ++ [0x0A])).length + 1)
        (ascii.res ++ (List.replicate 63 (0x31 : Byte) ++ [0x0A]))).1,
      line.length + ascii.cr.term.length ≤ ascii.cr.residueCap := by decide +kernel
theorem witness_TokenValues : (∀ x ∈ [(0x20 : Byte)], isWs x = true) ∧ (0x41 : Byte) ∈ [(0x31 : Byte), 0x41] ∧
    (0x41 : Byte) ∉ [(0x20 : Byte), 0x09, 0x0D, 0x0A, 0x2B, 0x2D, 0x2E, 0x45, 0x65] ∧
    ¬ (0x30 ≤ (0x41 : Byte).toNat ∧ (0x41 : Byte).toNat ≤ 0x39) ∧ num [0x31, 0x41] = .zero := by decide +kernel
/-- `-2.5E-4` by its parts; `.` is no numeric token, since every one has a digit. -/
theorem witness_TokenValues_numeral :
    (Numeral.mk (some true) [2] true [5] (some (true, some true, [4]))).wf = true ∧
    (Numeral.mk (some true) [2] true [5] (some (true, some true, [4]))).bytes = [0x2D, 0x32, 0x2E, 0x35, 0x45, 0x2D, 0x34] ∧
    (∀ x ∈ [(0x2E : Byte)].head?, x ∉ [(0x20 : Byte), 0x09, 0x0D, 0x0A]) ∧
    (∀ x ∈ [(0x2E : Byte)].getLast?, x ∉ [(0x20 : Byte), 0x09, 0x0D, 0x0A]) ∧
    ∀ x : Numeral, x.wf = true → x.bytes ≠ [0x2E] := by
  refine ⟨by decide, by decide, by decide, by decide, fun x hx hb => ?_⟩
  have digit : ∀ d : Fin 10, d ∉ x.whole ++ x.frac := fun d hd => by
    have hm : BitVec.ofNat 8 (0x30 + d.val) ∈ x.bytes := by
      have := List.mem_map_of_mem (f := fun d : Fin 10 => BitVec.ofNat 8 (0x30 + d.val)) hd
      simp only [List.map_append, List.mem_append] at this
      simp only [Numeral.bytes, digitBytes, List.mem_append]
      tauto
    rw [hb, List.mem_singleton] at hm
    exact (by decide : ∀ d : Fin 10, BitVec.ofNat 8 (0x30 + d.val) ≠ (0x2E : Byte)) d hm
  have none : x.whole ++ x.frac = [] := List.eq_nil_iff_forall_not_mem.2 digit
  simp_all [Numeral.wf, List.append_eq_nil_iff]
theorem witness_ElementsAssemble : [(0x80 : Byte)].length = elemWidth 0 ∧ [(0x80 : Byte)].length = elemWidth 1 ∧
    [(0xFF : Byte), 0xFE].length = elemWidth 3 ∧ [(0 : Byte), 0, 0x80, 0x3F].length = elemWidth 6 ∧
    (1 : BitVec 3).toNat ∈ [1, 3, 5] ∧ (4 : BitVec 3).toNat ∈ [0, 2, 4] := by decide
theorem witness_IntegersConvertExactly : (9007199254740992 : Int).natAbs ≤ 2 ^ 53 ∧
    (-9007199254740992 : Int).natAbs ≤ 2 ^ 53 := by decide
/-- 1 + 2^-53 lies half way and stays at the even 1, 3 * 2^-54 above 1 does not; a product and a quotient leave the range. -/
theorem witness_ArithmeticRounds :
    F64.signedUnits false (4607182418800017408 : Fin infMag).val + F64.signedUnits true (4602678819172646912 : Fin infMag).val ≠ 0 ∧
    F64.add .one (b 0x3CA0000000000000) = .one ∧ F64.add .one (b 0x3CA8000000000000) = b 0x3FF0000000000001 ∧
    F64.mul (b 0x7FEFFFFFFFFFFFFF) .two = .inf false ∧ F64.div (b 0x8000000000000001) .two = .signedZero true ∧
    F64.lt (b 0x8000000000000001) .zero = true ∧ F64.lt (.signedZero true) .zero = false ∧
    F64.isFinite .zero = true ∧ F64.isZero .zero = true ∧ F64.isZero .one = false ∧ F64.isNaN (.nan ⟨false, 0⟩) = true := by
  decide +kernel
theorem witness_Binary32Widens :
    (((0xFF800000#32).extractLsb' 23 8).toNat = 255 ∧ ((0xFF800000#32).extractLsb' 0 23).toNat = 0) ∧
    ((0x7F800001#32).extractLsb' 23 8).toNat = 255 ∧ ((0x7F800001#32).extractLsb' 0 23).toNat ≠ 0 ∧
    ((0x00000001#32).extractLsb' 23 8).toNat ≠ 255 := by decide
theorem witness_ProcessBlockComputes : two.ready = true ∧ two.chans.length = two.cr.nch ∧
    [[F64.one], [F64.zero]].length = two.cr.nch ∧
    (∀ a ∈ [[F64.one], [F64.zero]], ∀ b ∈ [[F64.one], [F64.zero]], a.length = b.length) ∧
    two.chans[1]? = some (Channel.reset 3) := by decide +kernel
theorem witness_BadBlockRefused : two.ready = true ∧ [[F64.one]].length ≠ two.cr.nch ∧
    ∃ a ∈ [[F64.one], []], ∃ b ∈ [[F64.one], []], a.length ≠ b.length := by decide +kernel
theorem witness_ChannelsAreIndependent :
    exec (.chProcessBlock [[.one], [.zero]]) two = .next (after (exec (.chProcessBlock [[.one], [.zero]]) two)) ∧
    exec (.chProcessBlock [[.one], [.one]]) nearly = .next (after (exec (.chProcessBlock [[.one], [.one]]) nearly)) ∧
    two.tables = nearly.tables ∧ two.factor = nearly.factor ∧ two.chans[0]? = some (chan0 two) ∧
    nearly.chans[0]? = some (chan0 nearly) ∧ (chan0 two).gain = (chan0 nearly).gain ∧
    (chan0 two).offset = (chan0 nearly).offset ∧ (chan0 two).filter = (chan0 nearly).filter ∧
    (chan0 two).rs = (chan0 nearly).rs :=
  ⟨next_of (by decide +kernel), next_of (by decide +kernel), rfl, rfl, by decide +kernel, by decide +kernel, rfl, rfl, rfl, rfl⟩
theorem witness_CommitStepAppends : flying.ready = true ∧ flying.chan? 0 = some (Channel.reset 3) ∧
    PendingAt flying.flights [] ⟨5, two.snapshot, [(0, [.one, .zero]), (1, [.one])]⟩ [] 5 [] 0 [.one, .zero] [(1, [.one])] ∧
    PendingAt flying.flights [] ⟨5, two.snapshot, [(0, [.one, .zero]), (1, [.one])]⟩ [] 5 [(0, [.one, .zero])] 1 [.one] [] ∧
    (Channel.reset 3).ring.total.toNat + [F64.one, F64.zero].length < 2 ^ 64 ∧ flying.inbox = [] ∧
    ({ flying with inbox := [.issue 5 (encode .rsReset)] } : State).inbox = [.issue 5 (encode .rsReset)] :=
  ⟨by decide +kernel, by decide +kernel, ⟨rfl, by simp, rfl, rfl, by simp⟩, ⟨rfl, by simp, rfl, rfl, by simp⟩,
    by decide +kernel, by decide +kernel, rfl⟩
/-- Step 0 of a block on two channels, for agent 5. -/
def stepped : State := after (exec (.chProcessBlock [[.one], [.zero]]) { two with turn := 5 })

theorem witness_BlockCommitsInAnyOrder : two.wf = true ∧ two.ready = true ∧ (∀ f ∈ two.flights, f.agent ≠ 5) ∧
    exec (.chProcessBlock [[.one], [.zero]]) { two with turn := 5 } = .next stepped ∧
    [(1 : BitVec 8), 0].Perm ((List.range two.cr.nch).map (BitVec.ofNat 8)) ∧
    ∀ f c ch values, stepped.flights.getLast? = some f → (c, values) ∈ f.pending → stepped.chan? c = some ch →
      ch.ring.total.toNat + values.length < 2 ^ 64 := by
  refine ⟨by decide +kernel, by decide +kernel, by decide +kernel, next_of (by decide +kernel), by decide +kernel,
    fun f c ch values hf hv hc => ?_⟩
  have total : ∀ ch ∈ stepped.chans, ch.ring.total.toNat = 0 := by decide +kernel
  have short : ∀ f ∈ stepped.flights, ∀ p ∈ f.pending, p.2.length = 1 := by decide +kernel
  rw [total ch (List.mem_of_getElem? (State.chan?_eq_some.1 hc).2), short f (List.mem_of_getLast? hf) _ hv]
  decide
/-- The commit step by itself, for a waiting operation of its agent (be it an RB_ADD), and with an empty schedule. -/
theorem witness_CommittedValuesAreFinite :
    flying.wf = true ∧ commitStep flying 5 0 = .next (after (commitStep flying 5 0)) ∧
    (chan0 (after (commitStep flying 5 0))).ring.buf[0]? = some (some .one) ∧
    State.wf { flying with inbox := [.issue 5 (encode (.rbAdd 0 (.inf false)))] } = true ∧
    nextPending 5 flying.inFlight ≠ none ∧
    step { flying with inbox := [.issue 5 (encode (.rbAdd 0 (.inf false)))] } =
      .next (after (step { flying with inbox := [.issue 5 (encode (.rbAdd 0 (.inf false)))] })) ∧
    flying.inbox = [] ∧ step flying = .next (after (step flying)) :=
  ⟨by decide +kernel, next_of (by decide +kernel), by decide +kernel, by decide +kernel, by decide +kernel,
    next_of (by decide +kernel), rfl, next_of (by decide +kernel)⟩
theorem witness_ResetPassesSamplesThrough : Params.default.legal = true ∧
    [[F64.one, F64.zero], [F64.zero, half]].length = Params.default.nch ∧
    (∀ a ∈ [[F64.one, F64.zero], [F64.zero, half]], ∀ v ∈ a, v.isFinite = true ∧ v ≠ F64.signedZero true) := by
  decide +kernel

theorem witness_PointwiseFilters : two.ready = true ∧ two.chan? 0 = some (Channel.reset 3) ∧
    (Channel.reset 3).filter = .none ∧ (withFilter .abs).ready = true ∧
    (withFilter .abs).chan? 0 = some { Channel.reset 3 with filter := .abs } ∧ (withFilter .square).ready = true ∧
    (withFilter .square).chan? 0 = some { Channel.reset 3 with filter := .square } :=
  ⟨rfl, two_ready.2.1, rfl, rfl, rfl, rfl, rfl⟩
theorem witness_LowAndHighPass : (withFilter (.lp ⟨half, .zero⟩)).ready = true ∧
    (withFilter (.lp ⟨half, .zero⟩)).chan? 0 = some { Channel.reset 3 with filter := .lp ⟨half, .zero⟩ } ∧
    (withFilter (.hp ⟨half, .zero⟩)).ready = true ∧
    (withFilter (.hp ⟨half, .zero⟩)).chan? 0 = some { Channel.reset 3 with filter := .hp ⟨half, .zero⟩ } :=
  ⟨rfl, rfl, rfl, rfl⟩

/-- A moving average of 2, filling (one sample in) and full. -/
def filling : MovingAverage := ⟨2, [some .one, none], 1, 1, .one⟩
def filled : MovingAverage := ⟨2, [some .one, some .zero], 0, 2, .one⟩

theorem witness_MovingAverageApplies : (withFilter (.mavg filled)).ready = true ∧
    (withFilter (.mavg filling)).ready = true ∧
    (withFilter (.mavg filled)).chan? 0 = some { Channel.reset 3 with filter := .mavg filled } ∧
    filled.n = filled.w ∧ filled.win[filled.idx]? = some (some .one) ∧
    (withFilter (.mavg filling)).chan? 0 = some { Channel.reset 3 with filter := .mavg filling } ∧ filling.n ≠ filling.w :=
  ⟨rfl, rfl, rfl, by decide, by decide, rfl, by decide⟩
/-- A median of 3 after one sample; a second, smaller one comes. -/
def middle : MedianFilter := ⟨3, [some .one, none, none], 1, 1, 1⟩

theorem witness_MedianApplies : (withFilter (.median middle)).ready = true ∧
    (withFilter (.median middle)).chan? 0 = some { Channel.reset 3 with filter := .median middle } ∧
    [F64.one, half].length = (if middle.n < middle.w then middle.n + 1 else middle.n) ∧
    (∀ j < [F64.one, half].length,
      (middle.win.set middle.idx (some half))[j]? = ([F64.one, half][j]?).map some) ∧
    [half, F64.one].Perm [F64.one, half] ∧
    [half, F64.one].Pairwise (fun a b => F64.lt b a = false) ∧ (∀ a ∈ [F64.one, half], a.isNaN = false) :=
  ⟨rfl, rfl, by decide, by decide +kernel, by decide +kernel, by decide +kernel, by decide +kernel⟩
/-- Windows with zeros of both signs whose median's sign is open: a mean of two zeros, and one of a zero and 2^-1074, which rounds to
zero (log 9). -/
theorem witness_MedianOpen : [F64.signedZero true, .zero].Perm [F64.zero, .signedZero true] ∧
    [F64.signedZero true, .zero].Pairwise (fun a b => F64.lt b a = false) ∧
    (F64.div (F64.add (.signedZero true) .zero) .two).isZero = true ∧
    F64.signedZero true ∈ [F64.zero, .signedZero true] ∧ F64.signedZero false ∈ [F64.zero, .signedZero true] ∧
    [F64.signedZero true, .zero, b 1, .one].Pairwise (fun a b => F64.lt b a = false) ∧
    (F64.div (F64.add .zero (b 1)) .two).isZero = true := by
  refine ⟨by decide, by decide +kernel, by decide +kernel, by decide, by decide, by decide +kernel, by decide +kernel⟩
theorem witness_RecursiveFilters (r : Notch) (q : Biquad) :
    (withFilter (.notch r)).ready = true ∧
    (withFilter (.notch r)).chan? 0 = some { Channel.reset 3 with filter := .notch r } ∧
    (withFilter (.biquad q)).ready = true ∧
    (withFilter (.biquad q)).chan? 0 = some { Channel.reset 3 with filter := .biquad q } := ⟨rfl, rfl, rfl, rfl⟩
theorem witness_InterpolatorApplies (r : Interp) : (withFilter (.interp r)).ready = true ∧
    (withFilter (.interp r)).chan? 0 = some { Channel.reset 3 with filter := .interp r } := ⟨rfl, rfl⟩
theorem witness_BlockIsRepeatedApply : two.ready = true ∧ two.chan? 0 = some (Channel.reset 3) ∧
    0 < [F64.one].length := ⟨rfl, two_ready.2.1, by decide⟩
theorem witness_DfResetResets (f : DFilter) : (withFilter f).ready = true ∧
    (withFilter f).chan? 0 = some { Channel.reset 3 with filter := f } := ⟨rfl, rfl⟩
theorem witness_KindAndParamsReadBack : two.ready = true ∧ two.chan? 0 = some (Channel.reset 3) ∧
    exec (.dfSelect 0 3 [.int 16]) two = .next (after (exec (.dfSelect 0 3 [.int 16]) two)) :=
  ⟨rfl, two_ready.2.1, next_of (by decide +kernel)⟩
/-- Each kind can be selected, a window at its bound; one past the bound and a reserved kind cannot. -/
theorem witness_DfSelectInstalls :
    [Instr.dfSelect 0 0 [], .dfSelect 0 1 [.real half], .dfSelect 0 2 [.real half], .dfSelect 0 3 [.int 16],
      .dfSelect 0 4 [.int 1], .dfSelect 0 5 [.real .one, .real .one, .real .one],
      .dfSelect 0 6 [.real .one, .real .one, .real .one, .real .one, .real .one], .dfSelect 0 7 [], .dfSelect 0 8 [],
      .dfSelect 0 9 [.int 1]].map (fun i => isNext (exec i two)) = List.replicate 10 true ∧
    [Instr.dfSelect 0 3 [.int 17], .dfSelect 0 4 [.int 0], .dfSelect 0 9 [.int 0], .dfSelect 0 10 [],
      .dfSelect 0 5 [.real .one, .real .zero, .real .one]].map (fun i => refusal (exec i two)) =
      List.replicate 5 (some .badFilter) := by decide +kernel
theorem witness_BypassPassesThrough : two.ready = true ∧ two.chan? 0 = some (Channel.reset 3) ∧ two.factor = 0 :=
  ⟨rfl, two_ready.2.1, rfl⟩
theorem witness_UpsamplerApplies : (withFactor 9).ready = true ∧ (withFactor 9).chan? 0 = some (Channel.reset 3) ∧ 0 < (withFactor 9).factor := by
  decide +kernel
theorem witness_DownsamplerApplies : (withFactor (-9)).ready = true ∧ (withFactor (-9)).chan? 0 = some (Channel.reset 3) ∧ (withFactor (-9)).factor < 0 ∧
    (Channel.reset 3).rs.phase < (withFactor (-9)).factor.natAbs + 1 := by decide +kernel
theorem witness_ResamplerLengths : (withFactor (-9)).ready = true ∧ (withFactor (-9)).factor = -9 ∧ (Channel.reset 3).rs.wf 0 = true ∧ (Channel.reset 3).rs.wf 9 = true ∧
    (Channel.reset 3).rs.wf (-9) = true ∧ (Channel.reset 3).rs.phase = 0 ∧
    (withFactor (-9)).chan? 0 = some (Channel.reset 3) := by decide +kernel
theorem witness_ResamplerSplits : (withFactor (-1)).ready = true ∧
    (withFactor (-1)).chan? 0 = some (Channel.reset 3) ∧ (Channel.reset 3).rs.tail.length = 64 := by decide +kernel
theorem witness_FactorAndReset : (withFactor 9).ready = true ∧ (9 : Int) = (withFactor 9).factor ∧
    (-9 : Int) ≠ (withFactor 9).factor ∧ (9 : Int) < 10 ∧ (-10 : Int) < -9 := by decide +kernel

end Sys2Proof.Tests
end

section
/-! PROOFS. The legality of construction parameters (00_scope.md R5, R6). -/

namespace Sys2Proof

theorem Params.formatLegal_iff {p : Params} : p.formatLegal = true ↔
    1 ≤ p.marker.length ∧ p.marker.length ≤ 8 ∧ p.etype ≠ 7 ∧ 1 ≤ p.term.length ∧ p.term.length ≤ 2 ∧ p.delim ∉ p.term ∧
      p.residueMin ≤ p.residueCap := by
  simp only [Params.formatLegal, Bool.and_eq_true, decide_eq_true_eq, Bool.not_eq_true',
    List.contains_eq_mem, decide_eq_false_iff_not, and_assoc]
  -- the bounds still stand under their names in `Config`
  rfl

/-- The bound that the mode decides, one clause per mode. -/
theorem Params.residueMin_le_iff {p : Params} {n : Nat} : p.residueMin ≤ n ↔
    (p.mode = .binary → p.marker.length + p.nch * elemWidth p.etype ≤ n) ∧ (p.mode = .ascii → 1 ≤ n) := by
  unfold Params.residueMin
  cases hmode : p.mode <;> simp [Params.frameBytes]

/-- Settles O2: legality clause by clause. -/
theorem legalConstruction : Obligations.LegalConstruction := by
  unfold Obligations.LegalConstruction
  intro p
  simp only [Params.legal, Bool.and_eq_true, decide_eq_true_eq, List.all_eq_true, Params.formatLegal_iff,
    Params.residueMin_le_iff, and_assoc]
  -- 256 still stands under its name in `Config`
  rfl

end Sys2Proof
end

section
/-! PROOFS. Binary64 arithmetic by its rounding (00_scope.md R8, R9). `F64.magUnits` is strictly increasing, so the one question a
rounding answers is, for each magnitude `j`, whether the result lies above `j`; `F64.lt_roundUnits_iff` answers it by comparing the
exact value with the midpoint of `j` and `j + 1`. That the result is nearest, that an exact value stays, and where the range ends
all follow from it. -/

namespace Sys2Proof

open Machine

/-! ### Magnitudes -/

/-- The value of a magnitude by its exponent and fraction fields. -/
theorem F64.magUnits_fields {e f : Nat} (hf : f < 2 ^ 52) :
    F64.magUnits (e * 2 ^ 52 + f) = if e = 0 then f else (2 ^ 52 + f) * 2 ^ (e - 1) := by
  have hdiv : (e * 2 ^ 52 + f) / 2 ^ 52 = e := by omega
  have hmod : (e * 2 ^ 52 + f) % 2 ^ 52 = f := by omega
  unfold F64.magUnits
  rw [hdiv, hmod]
  split
  · next he => simp [he]
  · rfl

/-- The value of a magnitude by its quantum 2^`sh` and significand `t`; a significand of 2^53 is the next power of two. -/
theorem F64.magUnits_significand {sh t : Nat} (ht : t ≤ 2 ^ 53) (hsh : sh = 0 ∨ 2 ^ 52 ≤ t) :
    F64.magUnits (sh * 2 ^ 52 + t) = t * 2 ^ sh := by
  rcases Nat.lt_or_ge t (2 ^ 52) with hsub | hnormal
  · obtain rfl : sh = 0 := by omega
    simpa using F64.magUnits_fields (e := 0) hsub
  · rcases Nat.lt_or_eq_of_le ht with hlt | rfl
    · obtain ⟨f, rfl⟩ := Nat.exists_eq_add_of_le hnormal
      have hmag : sh * 2 ^ 52 + (2 ^ 52 + f) = (sh + 1) * 2 ^ 52 + f := by omega
      rw [hmag, F64.magUnits_fields (by omega), if_neg (by omega), Nat.add_sub_cancel]
    · have hmag : sh * 2 ^ 52 + 2 ^ 53 = (sh + 2) * 2 ^ 52 + 0 := by omega
      rw [hmag, F64.magUnits_fields (by decide), if_neg (by omega), Nat.add_zero,
        show sh + 2 - 1 = sh + 1 from rfl, pow_succ]
      omega

/-- Every magnitude has a quantum and a significand of at most 53 bits. -/
theorem F64.exists_significand (m : Nat) :
    ∃ sh t, m = sh * 2 ^ 52 + t ∧ t < 2 ^ 53 ∧ (sh = 0 ∨ 2 ^ 52 ≤ t) :=
  ⟨m / 2 ^ 52 - 1, m - (m / 2 ^ 52 - 1) * 2 ^ 52, by omega, by omega, by omega⟩

theorem F64.magUnits_strictMono : StrictMono F64.magUnits := by
  refine strictMono_nat_of_lt_succ fun m => ?_
  obtain ⟨sh, t, rfl, ht, hsh⟩ := F64.exists_significand m
  rw [F64.magUnits_significand ht.le hsh, Nat.add_assoc, F64.magUnits_significand ht (by omega)]
  exact Nat.mul_lt_mul_of_pos_right (Nat.lt_succ_self t) (Nat.two_pow_pos sh)

theorem F64.mul_magUnits_lt {den j k : Nat} (hden : 0 < den) (h : j < k) : den * F64.magUnits j < den * F64.magUnits k :=
  Nat.mul_lt_mul_of_pos_left (F64.magUnits_strictMono h) hden

theorem F64.mul_magUnits_le {j k : Nat} (den : Nat) (h : j ≤ k) : den * F64.magUnits j ≤ den * F64.magUnits k :=
  Nat.mul_le_mul_left den (F64.magUnits_strictMono.monotone h)

@[simp] theorem F64.magUnits_zero : F64.magUnits 0 = 0 := rfl

@[simp] theorem F64.magUnits_eq_zero {m : Nat} : F64.magUnits m = 0 ↔ m = 0 :=
  F64.magUnits_strictMono.injective.eq_iff' F64.magUnits_zero

/-- Twice a value is a value. -/
theorem F64.exists_magUnits_double (m : Nat) : ∃ k, F64.magUnits k = F64.magUnits m * 2 := by
  obtain ⟨sh, t, rfl, ht, hsh⟩ := F64.exists_significand m
  rw [F64.magUnits_significand ht.le hsh]
  rcases Nat.lt_or_ge t (2 ^ 52) with hsub | hnormal
  · obtain rfl : sh = 0 := by omega
    exact ⟨0 * 2 ^ 52 + t * 2, by rw [F64.magUnits_significand (by omega) (.inl rfl)]; simp⟩
  · exact ⟨(sh + 1) * 2 ^ 52 + t, by rw [F64.magUnits_significand ht.le (.inr hnormal), pow_succ, Nat.mul_assoc]⟩

/-- Every whole number of at most 53 bits, scaled by a power of two, is a value, 2^53 included. -/
theorem F64.exists_magUnits_eq {n : Nat} (hn : n ≤ 2 ^ 53) (p : Nat) : ∃ m, F64.magUnits m = n * 2 ^ p := by
  induction p with
  | zero => exact ⟨0 * 2 ^ 52 + n, F64.magUnits_significand hn (.inl rfl)⟩
  | succ p ih =>
      obtain ⟨m, hm⟩ := ih
      obtain ⟨k, hk⟩ := F64.exists_magUnits_double m
      exact ⟨k, by rw [hk, hm, pow_succ, Nat.mul_assoc]⟩

/-- The value that would follow the largest finite one. -/
theorem F64.magUnits_infMag : F64.magUnits infMag = 2 ^ 53 * 2 ^ 2045 := by
  have hfields : infMag = 2045 * 2 ^ 52 + 2 ^ 53 := by norm_num
  rw [hfields, F64.magUnits_significand le_rfl (.inr (by norm_num))]

/-- The largest finite value. -/
theorem F64.magUnits_infMag_pred : F64.magUnits (infMag - 1) = (2 ^ 53 - 1) * 2 ^ 2045 := by
  have hfields : infMag - 1 = 2045 * 2 ^ 52 + (2 ^ 53 - 1) := by norm_num
  rw [hfields, F64.magUnits_significand (by norm_num) (.inr (by norm_num))]

/-- `overflowUnits` is the midpoint between the largest finite value and the one that would follow it. -/
theorem F64.magUnits_overflow :
    F64.magUnits (infMag - 1) + F64.magUnits infMag = 2 * overflowUnits := by
  rw [F64.magUnits_infMag_pred, F64.magUnits_infMag, overflowUnits, ← Nat.add_mul, pow_succ 2 2044]
  generalize 2 ^ 2044 = unit
  omega

/-! ### Rounding -/

/-- `num / den` units lie above the midpoint of the magnitudes `j` and `j + 1`, or on it with `j` odd: the side of `j` that
round-to-nearest-even takes. -/
def F64.roundsAbove (num den j : Nat) : Prop :=
  den * (F64.magUnits j + F64.magUnits (j + 1)) < 2 * num ∨
    (den * (F64.magUnits j + F64.magUnits (j + 1)) = 2 * num ∧ j % 2 = 1)

/-- The quantum that `roundUnits` chooses leaves a quotient of at most 53 bits, and of 53 bits unless the quantum is one unit. -/
theorem F64.quantum_bounds (q : Nat) :
    q / 2 ^ (q.log2 - 52) < 2 ^ 53 ∧ (q.log2 - 52 = 0 ∨ 2 ^ 52 ≤ q / 2 ^ (q.log2 - 52)) := by
  constructor
  · rw [Nat.div_lt_iff_lt_mul (Nat.two_pow_pos _), ← pow_add]
    exact Nat.lt_log2_self.trans_le (Nat.pow_le_pow_right (by decide) (by omega))
  · rcases Nat.lt_or_ge 52 q.log2 with hlog | hlog
    · right
      rw [Nat.le_div_iff_mul_le (Nat.two_pow_pos _), ← pow_add, show 52 + (q.log2 - 52) = q.log2 by omega]
      exact Nat.log2_self_le (by rintro rfl; simp at hlog)
    · left; omega

/-- `roundUnits` answers one of the two magnitudes around the exact value. -/
theorem F64.roundUnits_neighbour (num : Nat) {den : Nat} (hden : 0 < den) :
    ∃ c, den * F64.magUnits c ≤ num ∧ num < den * F64.magUnits (c + 1) ∧
      ((F64.roundsAbove num den c ∧ F64.roundUnits num den = c + 1) ∨
        (¬ F64.roundsAbove num den c ∧ F64.roundUnits num den = c)) := by
  obtain ⟨hlt, hsh⟩ := F64.quantum_bounds (num / den)
  rw [Nat.div_div_eq_div_mul] at hlt hsh
  unfold F64.roundUnits F64.roundsAbove
  dsimp only
  generalize (num / den).log2 - 52 = sh at hlt hsh ⊢
  have hd : 0 < den * 2 ^ sh := Nat.mul_pos hden (Nat.two_pow_pos sh)
  have hnum := Nat.div_add_mod num (den * 2 ^ sh)
  have hrem := Nat.mod_lt num hd
  generalize num / (den * 2 ^ sh) = t at hlt hsh hnum ⊢
  generalize num % (den * 2 ^ sh) = r at hnum hrem ⊢
  have hlow : den * F64.magUnits (sh * 2 ^ 52 + t) = den * 2 ^ sh * t := by
    rw [F64.magUnits_significand hlt.le hsh, Nat.mul_comm t, Nat.mul_assoc]
  have hhigh : den * F64.magUnits (sh * 2 ^ 52 + t + 1) = den * 2 ^ sh * t + den * 2 ^ sh := by
    rw [Nat.add_assoc, F64.magUnits_significand hlt (by omega), Nat.mul_comm (t + 1), ← Nat.mul_assoc, Nat.mul_succ]
  refine ⟨sh * 2 ^ 52 + t, by omega, by omega, ?_⟩
  rw [Nat.mul_add, hlow, hhigh]
  split <;> omega

/-- Round to nearest even, said of each magnitude: the result lies above `j` exactly when the exact value rounds to above `j`. -/
theorem F64.lt_roundUnits_iff {num den j : Nat} (hden : 0 < den) :
    j < F64.roundUnits num den ↔ F64.roundsAbove num den j := by
  obtain ⟨c, hlow, hhigh, hround⟩ := F64.roundUnits_neighbour num hden
  rcases Nat.lt_trichotomy j c with hjc | rfl | hcj
  · have hj := F64.mul_magUnits_lt hden hjc
    have hj' := F64.mul_magUnits_le den (show j + 1 ≤ c from hjc)
    have habove : F64.roundsAbove num den j := .inl (by rw [Nat.mul_add]; omega)
    exact iff_of_true (by omega) habove
  · rcases hround with ⟨habove, heq⟩ | ⟨hbelow, heq⟩
    · exact iff_of_true (by omega) habove
    · exact iff_of_false (by omega) hbelow
  · have hj := F64.mul_magUnits_le den (show c + 1 ≤ j from hcj)
    have hj' := F64.mul_magUnits_lt hden (Nat.lt_add_one j)
    have hbelow : ¬ F64.roundsAbove num den j := by
      unfold F64.roundsAbove
      rw [Nat.mul_add]
      omega
    exact iff_of_false (by omega) hbelow

/-- An exact value keeps its magnitude. -/
theorem F64.roundUnits_magUnits {den : Nat} (hden : 0 < den) (m : Nat) :
    F64.roundUnits (F64.magUnits m * den) den = m := by
  refine eq_of_forall_lt_iff fun j => (F64.lt_roundUnits_iff hden).trans ?_
  unfold F64.roundsAbove
  rw [Nat.mul_add, Nat.mul_comm _ den]
  have hstep := F64.mul_magUnits_lt hden (Nat.lt_add_one j)
  rcases Nat.lt_or_ge j m with hjm | hmj
  · have := F64.mul_magUnits_le den (show j + 1 ≤ m from hjm)
    omega
  · have := F64.mul_magUnits_le den hmj
    omega

/-- No magnitude is nearer than the rounded one, and one as near leaves it even. -/
theorem F64.roundUnits_nearest {num den : Nat} (hden : 0 < den) (k : Nat) :
    let m := F64.roundUnits num den
    ((num : Int) - F64.magUnits m * den).natAbs ≤ ((num : Int) - F64.magUnits k * den).natAbs ∧
      (((num : Int) - F64.magUnits m * den).natAbs = ((num : Int) - F64.magUnits k * den).natAbs → k = m ∨ m % 2 = 0) := by
  intro m
  have hcast (a : Nat) : (F64.magUnits a : Int) * den = ((den * F64.magUnits a : Nat) : Int) := by
    rw [Nat.mul_comm, Nat.cast_mul]
  rw [hcast, hcast]
  rcases Nat.lt_trichotomy k m with hkm | rfl | hmk
  · obtain ⟨j, hj⟩ : ∃ j, m = j + 1 := ⟨m - 1, by omega⟩
    have habove : F64.roundsAbove num den j := (F64.lt_roundUnits_iff hden).mp (by omega)
    unfold F64.roundsAbove at habove
    rw [Nat.mul_add, ← hj] at habove
    have hkj := F64.mul_magUnits_le den (show k ≤ j by omega)
    have hkm' := F64.mul_magUnits_lt hden hkm
    omega
  · exact ⟨le_rfl, fun _ => .inl rfl⟩
  · have hbelow : ¬ F64.roundsAbove num den m := fun h => lt_irrefl m ((F64.lt_roundUnits_iff hden).mpr h)
    unfold F64.roundsAbove at hbelow
    rw [Nat.mul_add] at hbelow
    have hnext := F64.mul_magUnits_le den (show m + 1 ≤ k from hmk)
    have hmk' := F64.mul_magUnits_lt hden hmk
    omega

/-- A rounding leaves the finite range from `overflowUnits` on. -/
theorem F64.infMag_le_roundUnits_iff {num den : Nat} (hden : 0 < den) :
    infMag ≤ F64.roundUnits num den ↔ den * overflowUnits ≤ num := by
  have hmid : den * (F64.magUnits (infMag - 1) + F64.magUnits (infMag - 1 + 1)) = 2 * (den * overflowUnits) := by
    rw [show infMag - 1 + 1 = infMag from rfl, F64.magUnits_overflow, Nat.mul_left_comm]
  calc infMag ≤ F64.roundUnits num den
      ↔ infMag - 1 < F64.roundUnits num den := Iff.rfl
    _ ↔ F64.roundsAbove num den (infMag - 1) := F64.lt_roundUnits_iff hden
    _ ↔ den * overflowUnits ≤ num := by
        have hodd : (infMag - 1) % 2 = 1 := by decide
        unfold F64.roundsAbove
        rw [hmid, and_iff_left hodd]
        omega

/-- `roundUnits`, as a number of a sign, is correct rounding to nearest even (R8, 30_encoding.md R111). -/
theorem isNearest_ofMag_roundUnits (neg : Bool) (num : Nat) {den : Nat} (hden : 0 < den) :
    isNearest neg num den (.ofMag neg (F64.roundUnits num den)) := by
  have hrange := F64.infMag_le_roundUnits_iff (num := num) hden
  unfold F64.ofMag
  split
  · next hfin =>
    exact ⟨rfl, by rw [← not_le, ← hrange]; omega, fun k =>
      ⟨(F64.roundUnits_nearest hden k).1, fun htie =>
        ((F64.roundUnits_nearest hden k).2 htie).imp_left Fin.ext⟩⟩
  · next hinf => exact ⟨rfl, hrange.mp (by omega)⟩

end Sys2Proof
end

section
/-! PROOFS. Signed values in units of 2^-1074, exact conversion of integers, and the fields of a 64-bit pattern (00_scope.md R8, R9). -/

namespace Sys2Proof

open Machine

/-! ### Signed values -/

theorem F64.natAbs_signedUnits (neg : Bool) (m : Nat) : (F64.signedUnits neg m).natAbs = F64.magUnits m := by
  cases neg <;> simp [F64.signedUnits]

theorem F64.signedUnits_eq_zero {neg : Bool} {m : Nat} : F64.signedUnits neg m = 0 ↔ m = 0 := by
  rw [← Int.natAbs_eq_zero, F64.natAbs_signedUnits, F64.magUnits_eq_zero]

/-- Inverting the sign negates the value. -/
theorem F64.signedUnits_not (neg : Bool) (m : Nat) : F64.signedUnits (!neg) m = -F64.signedUnits neg m := by
  cases neg <;> simp [F64.signedUnits]

/-- The values stand in the order of the signed magnitudes. -/
theorem F64.signedUnits_lt_iff (a b : Bool) (m n : Nat) :
    F64.signedUnits a m < F64.signedUnits b n ↔ (if a then -(m : Int) else m) < (if b then -(n : Int) else n) := by
  have hmn : F64.magUnits m < F64.magUnits n ↔ m < n := F64.magUnits_strictMono.lt_iff_lt
  have hnm : F64.magUnits n < F64.magUnits m ↔ n < m := F64.magUnits_strictMono.lt_iff_lt
  have hm : F64.magUnits m = 0 ↔ m = 0 := F64.magUnits_eq_zero
  have hn : F64.magUnits n = 0 ↔ n = 0 := F64.magUnits_eq_zero
  cases a <;> cases b <;> simp only [F64.signedUnits, if_true, if_false, Bool.false_eq_true] <;> omega

/-- A whole number of units that is not zero is rounded once. -/
theorem F64.isNearest_ofUnits {zeroNeg : Bool} {u : Int} (hu : u ≠ 0) :
    isNearest (decide (u < 0)) u.natAbs 1 (.ofUnits zeroNeg u) := by
  rw [F64.ofUnits, if_neg hu]
  exact isNearest_ofMag_roundUnits _ _ Nat.one_pos

/-- A whole number of units that is a finite value is kept. -/
theorem F64.ofUnits_exact {u : Int} {m : Fin infMag} (hm : F64.magUnits m.val = u.natAbs) :
    F64.ofUnits false u = .finite (decide (u < 0)) m := by
  unfold F64.ofUnits
  split
  · next hu =>
    have hzero : m = 0 := Fin.ext (F64.magUnits_eq_zero.mp (by simpa [hu] using hm))
    simp [hu, hzero, F64.signedZero]
  · rw [← Nat.mul_one u.natAbs, ← hm, F64.roundUnits_magUnits Nat.one_pos, F64.ofMag, dif_pos m.isLt]

/-- The sign and the magnitude of a value give it back. -/
theorem F64.signedUnits_of_natAbs {u : Int} {m : Nat} (hm : F64.magUnits m = u.natAbs) :
    F64.signedUnits (decide (u < 0)) m = u := by
  unfold F64.signedUnits
  rw [hm]
  split
  · next h => rw [decide_eq_true_eq] at h; omega
  · next h => rw [decide_eq_true_eq] at h; omega

/-- Every integer up to 2^53 in magnitude, scaled by a power of two inside the range, is a finite value. -/
theorem F64.exists_finite_of_natAbs_le {i : Int} (hi : i.natAbs ≤ 2 ^ 53) {p : Nat} (hp : p < 2045) :
    ∃ m : Fin infMag, F64.magUnits m.val = (i * 2 ^ p).natAbs := by
  obtain ⟨m, hm⟩ := F64.exists_magUnits_eq hi p
  have hfinite : m < infMag := by
    refine F64.magUnits_strictMono.lt_iff_lt.mp ?_
    rw [hm, F64.magUnits_infMag]
    have hpow : 2 ^ p < 2 ^ 2045 := pow_lt_pow_right₀ one_lt_two hp
    exact Nat.mul_lt_mul_of_le_of_lt hi hpow (Nat.two_pow_pos 53)
  exact ⟨⟨m, hfinite⟩, by rw [Int.natAbs_mul, Int.natAbs_pow]; exact hm⟩

theorem F64.ofInt_zero : F64.ofInt 0 = .finite false 0 := by
  rw [F64.ofInt, if_pos (by decide : (0 : Int).natAbs ≤ 2 ^ 53), Int.zero_mul]
  rfl

/-- Settles O34: an integer up to 2^53 is a value, and values round to themselves. -/
theorem integersConvertExactly : Obligations.IntegersConvertExactly := by
  unfold Obligations.IntegersConvertExactly
  refine ⟨fun i hi => ?_, F64.ofInt_zero, fun n => rfl⟩
  obtain ⟨m, hm⟩ := F64.exists_finite_of_natAbs_le hi (p := 1074) (by decide)
  refine ⟨_, m, ?_, F64.signedUnits_of_natAbs hm⟩
  rw [F64.ofInt, if_pos hi, F64.ofUnits_exact hm]

/-! ### Bit patterns -/

/-- Bits 62:0 of a sample's pattern. -/
def F64.magBits : F64 → Nat
  | .finite _ m => m.val
  | .inf _ => infMag
  | .nan v => infMag + 1 + v.fracPred.val

theorem F64.magBits_lt (x : F64) : x.magBits < 2 ^ 63 := by
  match x with
  | .finite _ m => exact m.isLt.trans (by decide)
  | .inf _ => exact (by decide : infMag < 2 ^ 63)
  | .nan v => exact Nat.add_lt_add_left v.fracPred.isLt (infMag + 1)

/-- A pattern is the sign bit above the magnitude bits. -/
theorem F64.toBits_eq (x : F64) : x.toBits = BitVec.ofNat 64 (x.sign.toNat * 2 ^ 63 + x.magBits) := by
  cases x <;> simp [F64.toBits, F64.sign, F64.magBits, Nat.add_assoc]

theorem F64.toNat_toBits (x : F64) : x.toBits.toNat = x.sign.toNat * 2 ^ 63 + x.magBits := by
  have hmag := x.magBits_lt
  have hsign := x.sign.toNat_le
  rw [F64.toBits_eq, BitVec.toNat_ofNat, Nat.mod_eq_of_lt (by omega)]

theorem F64.getLsbD_toBits (x : F64) (i : Nat) :
    x.toBits.getLsbD i = if i < 63 then x.magBits.testBit i else decide (i = 63) && x.sign := by
  rw [BitVec.getLsbD, F64.toNat_toBits, Nat.mul_comm, Nat.testBit_two_pow_mul_add _ x.magBits_lt]
  split
  · rfl
  · next hi =>
    rcases Nat.eq_or_lt_of_le (Nat.le_of_not_lt hi) with rfl | hlt
    · cases x.sign <;> rfl
    · have hshift : i - 63 = (i - 64) + 1 := by omega
      rw [hshift, Nat.testBit_succ]
      cases x.sign <;> simp; omega

/-- Bits 62:52 of a pattern, the exponent field. -/
theorem F64.toNat_exponent_toBits (x : F64) : (x.toBits.extractLsb' 52 11).toNat = x.magBits / 2 ^ 52 := by
  have hmag := x.magBits_lt
  have hsign := x.sign.toNat_le
  rw [BitVec.extractLsb'_toNat, F64.toNat_toBits, Nat.shiftRight_eq_div_pow]
  omega

/-- Bits 51:0 of a pattern, the fraction field. -/
theorem F64.toNat_fraction_toBits (x : F64) : (x.toBits.extractLsb' 0 52).toNat = x.magBits % 2 ^ 52 := by
  rw [BitVec.extractLsb'_toNat, F64.toNat_toBits, Nat.shiftRight_zero]
  omega

@[simp] theorem F64.sign_neg (x : F64) : (F64.neg x).sign = !x.sign := by cases x <;> rfl
@[simp] theorem F64.magBits_neg (x : F64) : (F64.neg x).magBits = x.magBits := by cases x <;> rfl

/-- A sign change inverts bit 63 and no other. -/
theorem F64.toBits_neg (x : F64) : (F64.neg x).toBits = x.toBits ^^^ 0x8000000000000000#64 := by
  refine BitVec.eq_of_getLsbD_eq fun i hi => ?_
  have hmask : (0x8000000000000000#64).getLsbD i = decide (i = 63) := by
    have hmin : (0x8000000000000000#64) = BitVec.twoPow 64 63 := by decide
    rw [hmin, BitVec.getLsbD_twoPow]
    simp [eq_comm]
  rw [BitVec.getLsbD_xor, F64.getLsbD_toBits, F64.getLsbD_toBits, hmask, F64.sign_neg, F64.magBits_neg]
  split
  · next h => simp [show i ≠ 63 by omega]
  · next h => simp [show i = 63 by omega]

end Sys2Proof
end

section
/-! PROOFS. The order and the four operations by case, NaNs and infinities included (00_scope.md R8). -/

namespace Sys2Proof

open Machine

/-! ### Order -/

theorem F64.lt_finite (a b : Bool) (m n : Fin infMag) :
    F64.lt (.finite a m) (.finite b n) = decide (F64.signedUnits a m.val < F64.signedUnits b n.val) :=
  decide_eq_decide.mpr (F64.signedUnits_lt_iff a b m n).symm

/-- The order key of a finite sample lies strictly between those of the infinities. -/
theorem F64.orderKey_finite_bounds (a : Bool) (m : Fin infMag) :
    -(infMag : Int) < F64.orderKey (.finite a m) ∧ F64.orderKey (.finite a m) < infMag := by
  have hm : (m.val : Int) < infMag := Int.ofNat_lt.mpr m.isLt
  cases a <;> simp only [F64.orderKey, if_true, if_false, Bool.false_eq_true] <;> omega

theorem F64.lt_finite_inf (a b : Bool) (m : Fin infMag) : F64.lt (.finite a m) (.inf b) = !b := by
  obtain ⟨hlow, hhigh⟩ := F64.orderKey_finite_bounds a m
  cases b
  · exact decide_eq_true hhigh
  · exact decide_eq_false hlow.not_gt

theorem F64.lt_inf_finite (a b : Bool) (n : Fin infMag) : F64.lt (.inf a) (.finite b n) = a := by
  obtain ⟨hlow, hhigh⟩ := F64.orderKey_finite_bounds b n
  cases a
  · exact decide_eq_false hhigh.not_gt
  · exact decide_eq_true hlow

theorem F64.lt_inf_inf (a b : Bool) : F64.lt (.inf a) (.inf b) = (a && !b) := by
  cases a <;> cases b <;> rfl

theorem F64.lt_eq_false_of_isNaN {x y : F64} (h : x.isNaN = true ∨ y.isNaN = true) : F64.lt x y = false := by
  rcases h with h | h <;> simp [F64.lt, h]

/-! ### Finite operands -/

theorem F64.add_finite (a b : Bool) (m n : Fin infMag) :
    F64.add (.finite a m) (.finite b n) = .ofUnits (a && b) (F64.signedUnits a m.val + F64.signedUnits b n.val) := rfl

theorem F64.sub_finite (a b : Bool) (m n : Fin infMag) :
    F64.sub (.finite a m) (.finite b n) = .ofUnits (a && !b) (F64.signedUnits a m.val - F64.signedUnits b n.val) := by
  rw [Int.sub_eq_add_neg, ← F64.signedUnits_not]
  rfl

theorem F64.ofUnits_zero (zeroNeg : Bool) : F64.ofUnits zeroNeg 0 = .signedZero zeroNeg := rfl

theorem F64.isNearest_mul_finite (a b : Bool) (m n : Fin infMag) :
    isNearest (a != b) (F64.magUnits m.val * F64.magUnits n.val) (2 ^ 1074) (F64.mul (.finite a m) (.finite b n)) := by
  have hunit : 0 < 2 ^ 1074 := by positivity
  rw [F64.mul]
  generalize 2 ^ 1074 = unit at hunit ⊢
  exact isNearest_ofMag_roundUnits _ _ hunit

theorem F64.isNearest_div_finite (a b : Bool) (m : Fin infMag) {n : Fin infMag} (hn : n.val ≠ 0) :
    isNearest (a != b) (F64.magUnits m.val * 2 ^ 1074) (F64.magUnits n.val) (F64.div (.finite a m) (.finite b n)) := by
  rw [F64.div, if_neg hn]
  generalize 2 ^ 1074 = unit
  exact isNearest_ofMag_roundUnits _ _ (Nat.pos_of_ne_zero (mt F64.magUnits_eq_zero.mp hn))

theorem F64.div_finite_zero (a b : Bool) {m n : Fin infMag} (hn : n.val = 0) (hm : m.val ≠ 0) :
    F64.div (.finite a m) (.finite b n) = .inf (a != b) := by
  rw [F64.div, if_pos hn, if_neg hm]

theorem F64.isNaN_div_zero_zero (a b : Bool) {m n : Fin infMag} (hn : n.val = 0) (hm : m.val = 0) :
    (F64.div (.finite a m) (.finite b n)).isNaN = true := by
  rw [F64.div, if_pos hn, if_pos hm]
  rfl

/-- The four operations round the exact result once. -/
theorem F64.finite_operations_round (a b : Bool) (m n : Fin infMag) :
    let x := F64.finite a m
    let y := F64.finite b n
    let u := F64.signedUnits a m.val
    let v := F64.signedUnits b n.val
    (u + v ≠ 0 → isNearest (decide (u + v < 0)) (u + v).natAbs 1 (F64.add x y)) ∧
    (u + v = 0 → F64.add x y = .signedZero (a && b)) ∧
    (u - v ≠ 0 → isNearest (decide (u - v < 0)) (u - v).natAbs 1 (F64.sub x y)) ∧
    (u - v = 0 → F64.sub x y = .signedZero (a && !b)) ∧
    isNearest (a != b) (u.natAbs * v.natAbs) (2 ^ 1074) (F64.mul x y) ∧
    (v ≠ 0 → isNearest (a != b) (u.natAbs * 2 ^ 1074) v.natAbs (F64.div x y)) ∧
    (v = 0 → u ≠ 0 → F64.div x y = .inf (a != b)) ∧
    (v = 0 → u = 0 → (F64.div x y).isNaN = true) := by
  intro x y u v
  have hu : u = 0 ↔ m.val = 0 := F64.signedUnits_eq_zero
  have hv : v = 0 ↔ n.val = 0 := F64.signedUnits_eq_zero
  rw [F64.natAbs_signedUnits, F64.natAbs_signedUnits, F64.add_finite, F64.sub_finite]
  refine ⟨F64.isNearest_ofUnits, fun h => ?_, F64.isNearest_ofUnits, fun h => ?_,
    F64.isNearest_mul_finite a b m n,
    fun hv0 => F64.isNearest_div_finite a b m (mt hv.mpr hv0),
    fun hv0 hu0 => F64.div_finite_zero a b (hv.mp hv0) (mt hu.mpr hu0),
    fun hv0 hu0 => F64.isNaN_div_zero_zero a b (hv.mp hv0) (hu.mp hu0)⟩
  · rw [h, F64.ofUnits_zero]
  · rw [h, F64.ofUnits_zero]

/-! ### Infinities and NaNs -/

/-- An infinity and a finite sample. -/
theorem F64.inf_finite_operations (a b : Bool) (n : Fin infMag) :
    let y := F64.finite b n
    F64.add (.inf a) y = .inf a ∧ F64.add y (.inf a) = .inf a ∧
    F64.sub (.inf a) y = .inf a ∧ F64.sub y (.inf a) = .inf (!a) ∧
    (y.isZero = false → F64.mul (.inf a) y = .inf (a != y.sign) ∧ F64.mul y (.inf a) = .inf (a != y.sign)) ∧
    (y.isZero = true → (F64.mul (.inf a) y).isNaN = true ∧ (F64.mul y (.inf a)).isNaN = true) ∧
    F64.div (.inf a) y = .inf (a != y.sign) ∧ F64.div y (.inf a) = .signedZero (a != y.sign) := by
  intro y
  have hcomm : (b != a) = (a != b) := bne_comm
  refine ⟨rfl, rfl, rfl, rfl, fun hy => ?_, fun hy => ?_, rfl, congrArg F64.signedZero hcomm⟩
  · have hn : n.val ≠ 0 := by simpa [y, F64.isZero] using hy
    exact ⟨by rw [F64.mul, if_neg hn]; rfl, by rw [F64.mul, if_neg hn, hcomm]; rfl⟩
  · have hn : n.val = 0 := by simpa [y, F64.isZero] using hy
    exact ⟨by rw [F64.mul, if_pos hn]; rfl, by rw [F64.mul, if_pos hn]; rfl⟩

/-- Two infinities. -/
theorem F64.inf_inf_operations (a b : Bool) :
    (a = b → F64.add (.inf a) (.inf b) = .inf a ∧ (F64.sub (.inf a) (.inf b)).isNaN = true) ∧
    (a ≠ b → (F64.add (.inf a) (.inf b)).isNaN = true ∧ F64.sub (.inf a) (.inf b) = .inf a) ∧
    F64.mul (.inf a) (.inf b) = .inf (a != b) ∧ (F64.div (.inf a) (.inf b)).isNaN = true := by
  refine ⟨?_, ?_, rfl, rfl⟩
  · rintro rfl
    cases a <;> exact ⟨rfl, rfl⟩
  · intro hab
    obtain rfl : b = !a := Bool.eq_not.mpr hab.symm
    cases a <;> exact ⟨rfl, rfl⟩

@[simp] theorem F64.isNaN_neg (x : F64) : (F64.neg x).isNaN = x.isNaN := by cases x <;> rfl

theorem F64.isNaN_addAs {x y : F64} (v : NaN) (h : x.isNaN = true ∨ y.isNaN = true) : (F64.addAs v x y).isNaN = true := by
  cases x <;> cases y <;> simp [F64.isNaN] at h <;> rfl

/-- A NaN operand makes every result a NaN. -/
theorem F64.isNaN_operations {x y : F64} (h : x.isNaN = true ∨ y.isNaN = true) :
    (F64.add x y).isNaN = true ∧ (F64.sub x y).isNaN = true ∧ (F64.mul x y).isNaN = true ∧ (F64.div x y).isNaN = true := by
  refine ⟨F64.isNaN_addAs _ h, F64.isNaN_addAs _ (by simpa using h), ?_, ?_⟩
  · cases x <;> cases y <;> simp [F64.isNaN] at h <;> rfl
  · cases x <;> cases y <;> simp [F64.isNaN] at h <;> rfl

/-! ### What the names stand for -/

theorem F64.isZero_finite (neg : Bool) (m : Fin infMag) :
    F64.isZero (.finite neg m) = decide (F64.magUnits m.val = 0) := by
  simp [F64.isZero, Bool.beq_eq_decide_eq]

/-- The fields of a finite sample's pattern and its value. -/
theorem F64.finite_fields (neg : Bool) (m : Fin infMag) :
    let w := (F64.finite neg m).toBits
    let e := (w.extractLsb' 52 11).toNat
    let f := (w.extractLsb' 0 52).toNat
    w.getLsbD 63 = neg ∧ F64.magUnits m.val = (if e = 0 then f else (2 ^ 52 + f) * 2 ^ (e - 1)) := by
  intro w e f
  have he : e = m.val / 2 ^ 52 := F64.toNat_exponent_toBits _
  have hf : f = m.val % 2 ^ 52 := F64.toNat_fraction_toBits _
  refine ⟨F64.getLsbD_toBits _ 63, ?_⟩
  rw [he, hf, ← F64.magUnits_fields (Nat.mod_lt _ (Nat.two_pow_pos 52)), Nat.div_add_mod']

/-- Settles O60: the rounding lemma for finite results, the cases of IEEE 754 for the others. -/
theorem arithmeticRounds : Obligations.ArithmeticRounds := by
  unfold Obligations.ArithmeticRounds
  refine ⟨by decide, F64.toBits_neg, fun neg m v => ?_, fun a b m n => ?_, fun x y => F64.lt_eq_false_of_isNaN, F64.finite_fields,
    F64.finite_operations_round, fun a y hy => ?_, F64.inf_inf_operations, fun x y => F64.isNaN_operations⟩
  · exact ⟨rfl, rfl, rfl, rfl, rfl, rfl, rfl, rfl, F64.isZero_finite neg m, rfl, rfl, rfl, rfl⟩
  · exact ⟨F64.lt_finite a b m n, F64.lt_finite_inf a b m, F64.lt_inf_finite a b n, F64.lt_inf_inf a b⟩
  · cases y with
    | finite b n => exact F64.inf_finite_operations a b n
    | inf b => cases hy
    | nan v => cases hy

end Sys2Proof
end

section
/-! PROOFS. What an operation can do, said once: `Effect` has one constructor per way a base operation of the block completes
(10_state.md R20 to R32), and `effect_of_exec` says there is no other. Which state each operation writes follows by cases. -/

namespace Sys2Proof.Machine

/-- A variant row does what its base row does (30_encoding.md R122, log 14). -/
theorem exec_eq_exec_base (i : Instr) (s : State) : exec i s = exec i.base s := by
  cases i with
  | fpParseBin chunk fault | fpParseAscii chunk fault =>
      simp only [exec, Instr.base, execFpParseBin, execFpParseAscii]
      split
      · simp only [execFpParse, selectedDecoder, *]
      · rfl
  | dfApplyNone c x | dfApplyLp c x | dfApplyHp c x | dfApplyMavg c x | dfApplyMedian c x | dfApplyNotch c x
  | dfApplyBiquad c x | dfApplyAbs c x | dfApplySquare c x | dfApplyInterp c x =>
      refine congrArg (onChannel s c) (funext fun ch => ?_)
      obtain ⟨_, _, _, f, _⟩ := ch
      cases f <;> rfl
  | rsProcessBypass c x =>
      simp only [exec, Instr.base, execRsProcessBypass]
      split
      · next bypass => simp only [execRsProcess, rsBlock, bypass, if_true]
      · rfl
  | rsProcessUp c x =>
      simp only [exec, Instr.base, execRsProcessUp]
      split
      · next up => simp only [execRsProcess, rsBlock, up, up.ne', if_true, if_false]
      · rfl
  | rsProcessDown c x =>
      simp only [exec, Instr.base, execRsProcessDown]
      split
      · next down => simp only [execRsProcess, rsBlock, down.ne, down.not_gt, if_false]
      · rfl
  | _ => rfl

/-- Writing back the channel that is there changes nothing. -/
theorem State.setChan_self {s : State} {c : BitVec 8} {ch : Channel} (h : s.chan? c = some ch) : s.setChan c ch = s := by
  obtain ⟨-, hc⟩ := State.chan?_eq_some.mp h
  obtain ⟨hl, rfl⟩ := List.getElem?_eq_some_iff.mp hc
  simp only [State.setChan, List.set_getElem_self]

/-- What a base operation on channel `c` makes of that channel, `ch` before it. -/
inductive ChannelEffect (s : State) (c : BitVec 8) (ch : Channel) : Instr → Channel → Prop
  | rbAdd {v : F64} {r : Ring} (room : ch.ring.append (s.cap c) [v] = some r) :
      ChannelEffect s c ch (.rbAdd c v) { ch with ring := r }
  | rbAddRange {vs : List F64} {r : Ring} (room : ch.ring.append (s.cap c) vs = some r) :
      ChannelEffect s c ch (.rbAddRange c vs) { ch with ring := r }
  | rbCopyLatest {n : BitVec 32} {dest : List F64} : ChannelEffect s c ch (.rbCopyLatest c n dest) ch
  | rbNewDataSince {q : BitVec 64} : ChannelEffect s c ch (.rbNewDataSince c q) ch
  | rbClear : ChannelEffect s c ch (.rbClear c) { ch with ring := ch.ring.clear }
  | rbCapacity : ChannelEffect s c ch (.rbCapacity c) ch
  | rbCount : ChannelEffect s c ch (.rbCount c) ch
  | chSetCal {gain offset : F64} : ChannelEffect s c ch (.chSetCal c gain offset) { ch with gain := gain, offset := offset }
  | dfApply {x : F64} : ChannelEffect s c ch (.dfApply c x) { ch with filter := (dfStep ch.filter x).1 }
  | dfReset : ChannelEffect s c ch (.dfReset c) { ch with filter := ch.filter.reset }
  | dfKind : ChannelEffect s c ch (.dfKind c) ch
  | dfParams : ChannelEffect s c ch (.dfParams c) ch
  | dfSelect {kind : BitVec 4} {ps : List FParam} {f : DFilter} (made : createFilter s.cr.wMax kind ps = some f) :
      ChannelEffect s c ch (.dfSelect c kind ps) { ch with filter := f }
  | rsProcess {x : List F64} :
      ChannelEffect s c ch (.rsProcess c x) { ch with rs := (rsBlock s.tables s.factor ch.rs x).1 }

/-- What a base operation that completes makes of the state: an operation on a channel writes that channel and the result port, the
others write as their constructors say. -/
inductive Effect (s : State) : Instr → State → Prop
  | sysReset {p : Params} (legal : p.legal = true) : Effect s (.sysReset p) (s.construct p)
  | fpDiscard {chunk : List Byte} (ready : s.ready = true) (short : chunk.length ≤ s.cr.chunkMax) :
      Effect s (.fpParse chunk true) (raiseDiscard s)
  | fpParse {chunk : List Byte} (ready : s.ready = true) (short : chunk.length ≤ s.cr.chunkMax) :
      Effect s (.fpParse chunk false)
        { s with
          res := capResidue s.cr.residueCap (selectedDecoder s.cr.mode s.cr (s.res ++ chunk)).2
          reply := .parsed (byChannel s.cr.nch (selectedDecoder s.cr.mode s.cr (s.res ++ chunk)).1) .ok }
  | chProcessBlock {samples : List (List F64)} (ready : s.ready = true) (count : samples.length = s.cr.nch)
      (rect : blockRectangular samples = true) :
      Effect s (.chProcessBlock samples)
        { s with
          chans := (stageAll s.tables s.factor s.chans samples).map Prod.fst
          flights := s.flights ++
            [⟨s.turn, s.snapshot, indexed ((stageAll s.tables s.factor s.chans samples).map Prod.snd)⟩]
          reply := .none }
  | rsKeepFactor (ready : s.ready = true) (legal : factorLegal s.factor = true) :
      Effect s (.rsSetFactor s.factor) (s.answer .none)
  | rsSetFactor {k : Int} (ready : s.ready = true) (legal : factorLegal k = true) :
      Effect s (.rsSetFactor k) { s with factor := k, chans := resetResamplers s.chans, reply := .none }
  | rsReset (ready : s.ready = true) : Effect s .rsReset { s with chans := resetResamplers s.chans, reply := .none }
  | channel {i : Instr} {c : BitVec 8} {ch ch' : Channel} {reply : Reply} (ready : s.ready = true)
      (there : s.chan? c = some ch) (effect : ChannelEffect s c ch i ch') : Effect s i ((s.setChan c ch').answer reply)

/-- An operation that only reads its channel. -/
theorem Effect.read {s : State} {i : Instr} {c : BitVec 8} {ch : Channel} {reply : Reply} (ready : s.ready = true)
    (there : s.chan? c = some ch) (effect : ChannelEffect s c ch i ch) : Effect s i (s.answer reply) := by
  simpa only [State.setChan_self there] using Effect.channel (reply := reply) ready there effect

/-- Everything an operation that completes can do; a variant row has the effect of its base row. -/
theorem effect_of_exec {s t : State} {i : Instr} (h : exec i s = .next t) : Effect s i.base t := by
  rw [exec_eq_exec_base] at h
  cases i with
  | sysReset p =>
      simp only [exec, Instr.base, execSysReset] at h
      split at h
      · cases h; exact .sysReset ‹_›
      · cases h
  | fpParse chunk fault | fpParseBin chunk fault | fpParseAscii chunk fault =>
      obtain ⟨hr, short, ⟨rfl, rfl⟩ | ⟨rfl, rfl⟩⟩ := parseWith_next h
      · exact .fpDiscard hr short
      · exact .fpParse hr short
  | chProcessBlock samples =>
      obtain ⟨hr, hg⟩ := whenReady_next h
      split at hg
      · next shape =>
        obtain ⟨count, rect⟩ := shape
        cases hg
        exact .chProcessBlock hr count rect
      · cases hg
  | rsSetFactor k =>
      obtain ⟨hr, hg⟩ := whenReady_next h
      split at hg
      · next legal =>
        split at hg
        · next same => cases hg; cases same; exact .rsKeepFactor hr legal
        · cases hg; exact .rsSetFactor hr legal
      · cases hg
  | rsReset =>
      obtain ⟨hr, hg⟩ := whenReady_next h
      cases hg
      exact .rsReset hr
  | rbAdd c v =>
      obtain ⟨hr, ch, hc, hg⟩ := onChannel_next h
      split at hg
      · cases hg
      · cases hg; exact .channel hr hc (.rbAdd ‹_›)
  | rbAddRange c vs =>
      obtain ⟨hr, ch, hc, hg⟩ := onChannel_next h
      split at hg
      · cases hg
      · cases hg; exact .channel hr hc (.rbAddRange ‹_›)
  | rbCopyLatest c n dest =>
      obtain ⟨hr, ch, hc, hg⟩ := onChannel_next h
      simp only at hg
      split at hg
      · cases hg
      · cases hg; exact .read hr hc .rbCopyLatest
  | dfSelect c kind ps =>
      obtain ⟨hr, ch, hc, hg⟩ := onChannel_next h
      split at hg
      · cases hg
      · cases hg; exact .channel hr hc (.dfSelect ‹_›)
  | rbNewDataSince c _ | rbCapacity c | rbCount c | dfKind c | dfParams c =>
      obtain ⟨hr, ch, hc, hg⟩ := onChannel_next h
      cases hg
      exact .read hr hc (by constructor)
  | rbClear c | chSetCal c _ _ | dfReset c
  | dfApply c _ | dfApplyNone c _ | dfApplyLp c _ | dfApplyHp c _ | dfApplyMavg c _ | dfApplyMedian c _
  | dfApplyNotch c _ | dfApplyBiquad c _ | dfApplyAbs c _ | dfApplySquare c _ | dfApplyInterp c _
  | rsProcess c _ | rsProcessBypass c _ | rsProcessUp c _ | rsProcessDown c _ =>
      obtain ⟨hr, ch, hc, hg⟩ := onChannel_next h
      cases hg
      exact .channel hr hc (by constructor)

/-- Each piece of a channel is written only by the operations named for it. -/
theorem ChannelEffect.frame {s : State} {c : BitVec 8} {ch ch' : Channel} {i : Instr} (e : ChannelEffect s c ch i ch') :
    (writesRing i = false → ch'.ring = ch.ring) ∧
    (writesCalibration i = false → ch'.gain = ch.gain ∧ ch'.offset = ch.offset) ∧
    (writesFilter i = false → ch'.filter = ch.filter) ∧
    (writesResampler i = false → ch'.rs = ch.rs) := by
  cases e <;> simp [writesRing, writesCalibration, writesFilter, writesResampler, Instr.base]

/-- Step 0 leaves the RingBuffer and the calibration of a channel. -/
theorem stageChannel_frame (t : Tables) (factor : Int) (ch : Channel) (raw : List F64) :
    (stageChannel t factor ch raw).1.ring = ch.ring ∧ (stageChannel t factor ch raw).1.gain = ch.gain ∧
      (stageChannel t factor ch raw).1.offset = ch.offset := ⟨rfl, rfl, rfl⟩

theorem getElem?_resetResamplers (chans : List Channel) (c : Nat) :
    (resetResamplers chans)[c]? = chans[c]?.map (fun ch => { ch with rs := .reset }) := List.getElem?_map ..

/-- With one array per channel, step 0 reaches every channel that is there. -/
theorem getElem?_stageAll {t : Tables} {factor : Int} {chans : List Channel} {samples : List (List F64)} {c : Nat}
    {ch : Channel} (hch : chans[c]? = some ch) (hc : c < samples.length) :
    (stageAll t factor chans samples)[c]? = some (stageChannel t factor ch samples[c]) := by
  simp [stageAll, List.getElem?_zipWith, hch, hc]

/-- Every channel that was there is there after the operation, and so is each piece of it that the operation does not write. -/
theorem Effect.exists_chan? {s t : State} {i : Instr} (e : Effect s i t) (hi : isSysReset i = false) {d : BitVec 8} {ch : Channel}
    (hd : s.chan? d = some ch) : ∃ ch', t.chan? d = some ch' ∧
      (writesRing i = false → ch'.ring = ch.ring) ∧
      (writesCalibration i = false → ch'.gain = ch.gain ∧ ch'.offset = ch.offset) ∧
      (writesFilter i = false → ch'.filter = ch.filter) ∧
      (writesResampler i = false → ch'.rs = ch.rs) := by
  obtain ⟨hn, hch⟩ := State.chan?_eq_some.mp hd
  cases e with
  | sysReset => cases hi
  | fpDiscard | fpParse | rsKeepFactor =>
      exact ⟨ch, hd, fun _ => rfl, fun _ => ⟨rfl, rfl⟩, fun _ => rfl, fun _ => rfl⟩
  | @chProcessBlock samples _ count _ =>
      obtain ⟨ring, gain, offset⟩ := stageChannel_frame s.tables s.factor ch samples[d.toNat]
      refine ⟨_, State.chan?_eq_some.mpr ⟨hn, ?_⟩, fun _ => ring, fun _ => ⟨gain, offset⟩, nofun, nofun⟩
      simp only [List.getElem?_map, getElem?_stageAll hch (count ▸ hn), Option.map_some]
  | rsSetFactor | rsReset =>
      refine ⟨{ ch with rs := .reset }, State.chan?_eq_some.mpr ⟨hn, ?_⟩, fun _ => rfl, fun _ => ⟨rfl, rfl⟩, fun _ => rfl,
        nofun⟩
      rw [getElem?_resetResamplers, hch]
      rfl
  | @channel _ c old new _ _ there effect =>
      rw [State.chan?_answer]
      by_cases hdc : d = c
      · subst hdc
        obtain rfl : old = ch := by simpa [there] using hd
        exact ⟨new, State.chan?_setChan_self there, effect.frame⟩
      · exact ⟨ch, by rw [State.chan?_setChan_of_ne hdc, hd], fun _ => rfl, fun _ => ⟨rfl, rfl⟩, fun _ => rfl,
          fun _ => rfl⟩

/-- What an operation leaves of everything that belongs to no channel. -/
theorem Effect.frame {s t : State} {i : Instr} (e : Effect s i t) (hi : isSysReset i = false) :
    t.ready = s.ready ∧ t.cr = s.cr ∧ t.tables = s.tables ∧ t.inbox = s.inbox ∧ t.turn = s.turn ∧
    (writesResidue i = false → t.res = s.res) ∧
    (writesFactor i = false → t.factor = s.factor) ∧
    (writesFlights i = false → t.flights = s.flights) := by
  cases e with
  | sysReset => cases hi
  | fpDiscard | fpParse => exact ⟨rfl, rfl, rfl, rfl, rfl, nofun, fun _ => rfl, fun _ => rfl⟩
  | chProcessBlock => exact ⟨rfl, rfl, rfl, rfl, rfl, fun _ => rfl, fun _ => rfl, nofun⟩
  | rsSetFactor => exact ⟨rfl, rfl, rfl, rfl, rfl, fun _ => rfl, nofun, fun _ => rfl⟩
  | rsKeepFactor | rsReset | channel => exact ⟨rfl, rfl, rfl, rfl, rfl, fun _ => rfl, fun _ => rfl, fun _ => rfl⟩

/-- A variant row writes what its base row writes. -/
theorem writes_base (i : Instr) :
    isSysReset i.base = isSysReset i ∧ writesResidue i.base = writesResidue i ∧ writesRing i.base = writesRing i ∧
    writesCalibration i.base = writesCalibration i ∧ writesFilter i.base = writesFilter i ∧
    writesResampler i.base = writesResampler i ∧ writesFactor i.base = writesFactor i ∧
    writesFlights i.base = writesFlights i := by
  cases i <;> exact ⟨rfl, rfl, rfl, rfl, rfl, rfl, rfl, rfl⟩

/-- Settles O13: the frames of the base row's effect. -/
theorem onlyNamedOperationsWrite : Obligations.OnlyNamedOperationsWrite := by
  unfold Obligations.OnlyNamedOperationsWrite
  intro s t i hi h
  have e := effect_of_exec h
  obtain ⟨hreset, hres, hring, hcal, hfilter, hrs, hfactor, hflights⟩ := writes_base i
  have hb : isSysReset i.base = false := hreset.trans hi
  obtain ⟨fready, fcr, ftables, finbox, fturn, fres, ffactor, fflights⟩ := e.frame hb
  refine ⟨fready, fcr, ftables, finbox, fturn, hres ▸ fres, hfactor ▸ ffactor, hflights ▸ fflights, fun d ch hd => ?_⟩
  simpa only [hring, hcal, hfilter, hrs] using e.exists_chan? hb hd

end Sys2Proof.Machine
end

section
/-! PROOFS. The invariant part by part (10_state.md R21, R26, R28 to R30): for each part of the state what its check says, and that the
operations on that part keep it. -/

namespace Sys2Proof.Machine

/-! ### Filter windows -/

theorem windowWf_iff {w idx n : Nat} {win : List (Option F64)} :
    windowWf w win idx n = true ↔ win.length = w ∧ idx < w ∧ n ≤ w ∧ (n = w ∨ idx = n) ∧
      ∀ i < w, (win.getD i none).isSome = decide (i < n) := by
  simp only [windowWf, Bool.and_eq_true, Bool.or_eq_true, decide_eq_true_eq, List.all_eq_true, List.mem_range,
    beq_iff_eq, and_assoc]

/-- A sample written into a window, full or not. -/
theorem windowWf_push {w idx n : Nat} {win : List (Option F64)} (x : F64) (h : windowWf w win idx n = true) :
    windowWf w (win.set idx (some x)) ((idx + 1) % w) (min (n + 1) w) = true := by
  obtain ⟨hl, hidx, hn, hnext, hheld⟩ := windowWf_iff.mp h
  refine windowWf_iff.mpr ⟨by simpa using hl, Nat.mod_lt _ (by omega), Nat.min_le_right .., ?_, fun i hi => ?_⟩
  · have := next_index hidx
    omega
  · by_cases hii : idx = i
    · subst hii
      have : idx < min (n + 1) w := by omega
      simp [List.getD, hl, hidx, this]
    · rw [List.getD_eq_getElem?_getD, List.getElem?_set_ne hii, ← List.getD_eq_getElem?_getD, hheld i hi]
      exact decide_eq_decide.mpr (by omega)

theorem windowWf_empty {w : Nat} (h : 1 ≤ w) : windowWf w (emptyWindow w) 0 0 = true :=
  windowWf_iff.mpr ⟨List.length_replicate, h, w.zero_le, .inr rfl, fun i hi => by simp [emptyWindow, List.getD, hi]⟩

/-! ### Filters -/

theorem DFilter.wf_iff {wMax : Nat} {f : DFilter} :
    f.wf wMax = true ↔ filterLegal wMax f.kind f.params = true ∧ f.registersWf = true := Bool.and_eq_true_iff

/-- A tick of the interpolator leaves `NDEC`. -/
@[simp] theorem interpTick_ndec (r : Interp) (x : F64) : (interpTick r x).ndec = r.ndec := by
  unfold interpTick
  split
  · rfl
  · split <;> rfl

theorem interpTick_primed (r : Interp) (x : F64) : (interpTick r x).primed = true := by
  unfold interpTick
  split
  · rfl
  · split <;> simp_all

/-- A sample leaves the kind and the parameters. -/
theorem dfStep_settings (f : DFilter) (x : F64) : (dfStep f x).1.kind = f.kind ∧ (dfStep f x).1.params = f.params := by
  cases f with
  | interp r => simp [dfStep, interpStep, DFilter.kind, DFilter.params]
  | _ => exact ⟨rfl, rfl⟩

theorem dfStep_registersWf {f : DFilter} (x : F64) (h : f.registersWf = true) : (dfStep f x).1.registersWf = true := by
  cases f with
  | mavg r =>
      have hn : (if r.n = r.w then r.n else r.n + 1) = min (r.n + 1) r.w := by
        obtain ⟨-, -, hle, -⟩ := windowWf_iff.mp h
        split <;> omega
      simpa only [dfStep, mavgStep, DFilter.registersWf, hn] using windowWf_push x h
  | median r =>
      have hn : (if r.n < r.w then r.n + 1 else r.n) = min (r.n + 1) r.w := by
        obtain ⟨-, -, hle, -⟩ := windowWf_iff.mp h
        split <;> omega
      simpa only [dfStep, medianStep, DFilter.registersWf, hn] using windowWf_push x h
  | interp r =>
      have hk : r.k < r.ndec := by
        simp only [DFilter.registersWf, Bool.and_eq_true, decide_eq_true_eq] at h
        exact h.1
      simp [dfStep, interpStep, DFilter.registersWf, interpTick_primed, Nat.mod_lt _ (Nat.zero_lt_of_lt hk)]
  | _ => exact h

theorem dfStep_wf {wMax : Nat} {f : DFilter} (x : F64) (h : f.wf wMax = true) : (dfStep f x).1.wf wMax = true := by
  obtain ⟨legal, registers⟩ := DFilter.wf_iff.mp h
  obtain ⟨kind, params⟩ := dfStep_settings f x
  exact DFilter.wf_iff.mpr ⟨by rw [kind, params]; exact legal, dfStep_registersWf x registers⟩

theorem dfBlock_wf {wMax : Nat} {f : DFilter} (xs : List F64) (h : f.wf wMax = true) : (dfBlock f xs).1.wf wMax = true := by
  induction xs generalizing f with
  | nil => exact h
  | cons x xs ih => exact ih (dfStep_wf x h)

theorem DFilter.reset_settings (f : DFilter) : f.reset.kind = f.kind ∧ f.reset.params = f.params := by
  cases f <;> exact ⟨rfl, rfl⟩

/-- A window and a decimation are at least 1 (43_digitalfilter.md R246). -/
theorem one_le_of_filterLegal {wMax : Nat} {kind : BitVec 4} {n : Int} (h : filterLegal wMax kind [.int n] = true) : 1 ≤ n := by
  unfold filterLegal at h
  split at h <;> simp_all

theorem DFilter.reset_wf {wMax : Nat} {f : DFilter} (h : f.wf wMax = true) : f.reset.wf wMax = true := by
  obtain ⟨legal, registers⟩ := DFilter.wf_iff.mp h
  obtain ⟨kind, params⟩ := f.reset_settings
  refine DFilter.wf_iff.mpr ⟨by rw [kind, params]; exact legal, ?_⟩
  cases f with
  | mavg r | median r => exact windowWf_empty (Int.ofNat_le.mp (one_le_of_filterLegal legal))
  | interp r =>
      have hn : 0 < r.ndec := Int.ofNat_le.mp (one_le_of_filterLegal legal)
      simpa [DFilter.reset, DFilter.registersWf] using hn
  | _ => exact registers

/-- A filter made by DF_SELECT has the kind and the parameters asked for, and registers in range. -/
theorem createFilter_wf {wMax : Nat} {kind : BitVec 4} {ps : List FParam} {f : DFilter} (h : createFilter wMax kind ps = some f) :
    f.kind = kind ∧ f.params = ps ∧ f.wf wMax = true := by
  unfold createFilter at h
  split at h
  · next legal =>
    suffices made : f.kind = kind ∧ f.params = ps ∧ f.registersWf = true by
      obtain ⟨hk, hps, hregs⟩ := made
      exact ⟨hk, hps, DFilter.wf_iff.mpr ⟨by rw [hk, hps]; exact legal, hregs⟩⟩
    have code {k : BitVec 4} (hk : kind.toNat = k.toNat) : k = kind := BitVec.eq_of_toNat_eq hk.symm
    have window {n : Int} (hps : ps = [.int n]) : 1 ≤ n.toNat ∧ [FParam.int n.toNat] = ps := by
      have hn : 1 ≤ n := one_le_of_filterLegal (hps ▸ legal)
      exact ⟨by omega, by rw [hps, Int.toNat_of_nonneg (by omega)]⟩
    -- one case per kind code, in order: the windows are the fourth and fifth, the notch the sixth, the interpolator the tenth
    split at h
    case h_4 | h_5 => cases h; exact ⟨code ‹_›, (window rfl).2, windowWf_empty (window rfl).1⟩
    case h_6 => cases h; exact ⟨code ‹_›, rfl, by simp [DFilter.registersWf]⟩
    case h_10 =>
      have hn := (window rfl).1
      cases h
      exact ⟨code ‹_›, (window rfl).2, by simpa [DFilter.registersWf] using Nat.lt_of_succ_le hn⟩
    case h_11 => cases h
    all_goals cases h; exact ⟨code ‹_›, rfl, rfl⟩
  · cases h

/-! ### Resamplers -/

theorem ratio_pos (factor : Int) : 0 < ratio factor := Nat.succ_pos _

theorem Resamp.wf_iff {factor : Int} {r : Resamp} :
    r.wf factor = true ↔ r.tail.length = Config.tailLength ∧ r.phase < ratio factor := by
  simp only [Resamp.wf, Bool.and_eq_true, decide_eq_true_eq]

theorem Resamp.reset_wf (factor : Int) : Resamp.reset.wf factor = true :=
  Resamp.wf_iff.mpr ⟨List.length_replicate, ratio_pos factor⟩

theorem length_lastTail {z : List F64} (h : Config.tailLength ≤ z.length) : (lastTail z).length = Config.tailLength := by
  rw [lastTail, List.length_drop]
  omega

theorem decimate_phase_lt {h z : List F64} {m : Nat} (n j : Nat) {phase : Nat} (hp : phase < m) :
    (decimate h z m n j phase).2 < m := by
  induction n generalizing j phase with
  | zero => exact hp
  | succ n ih => exact ih (j + 1) (Nat.mod_lt _ (Nat.zero_lt_of_lt hp))

theorem rsBlock_wf (t : Tables) {factor : Int} {r : Resamp} (x : List F64) (h : r.wf factor = true) :
    (rsBlock t factor r x).1.wf factor = true := by
  obtain ⟨tail, phase⟩ := Resamp.wf_iff.mp h
  unfold rsBlock
  split
  · exact h
  · split
    · exact Resamp.wf_iff.mpr ⟨length_lastTail (by simp only [List.length_append]; omega), phase⟩
    · exact Resamp.wf_iff.mpr ⟨length_lastTail (by simp only [List.length_append]; omega), decimate_phase_lt _ _ phase⟩

/-! ### Channels -/

theorem Channel.wf_iff {wMax : Nat} {factor : Int} {cap : Nat} {ch : Channel} :
    ch.wf wMax factor cap = true ↔ ch.ring.wf cap = true ∧ ch.filter.wf wMax = true ∧ ch.rs.wf factor = true := by
  simp only [Channel.wf, Bool.and_eq_true, and_assoc]

theorem Channel.reset_wf {wMax cap : Nat} {factor : Int} (h : 1 ≤ cap) : (Channel.reset cap).wf wMax factor cap = true :=
  Channel.wf_iff.mpr ⟨Ring.wf_reset h, rfl, Resamp.reset_wf factor⟩

/-- Every operation on a channel keeps it well formed. -/
theorem ChannelEffect.wf {s : State} {c : BitVec 8} {ch ch' : Channel} {i : Instr} (e : ChannelEffect s c ch i ch')
    (h : ch.wf s.cr.wMax s.factor (s.cap c) = true) : ch'.wf s.cr.wMax s.factor (s.cap c) = true := by
  obtain ⟨ring, filter, rs⟩ := Channel.wf_iff.mp h
  cases e with
  | rbAdd room | rbAddRange room => exact Channel.wf_iff.mpr ⟨Ring.wf_append ring room, filter, rs⟩
  | rbClear => exact Channel.wf_iff.mpr ⟨Ring.wf_clear ring, filter, rs⟩
  | dfApply => exact Channel.wf_iff.mpr ⟨ring, dfStep_wf _ filter, rs⟩
  | dfReset => exact Channel.wf_iff.mpr ⟨ring, DFilter.reset_wf filter, rs⟩
  | dfSelect made =>
      obtain ⟨-, -, new⟩ := createFilter_wf made
      exact Channel.wf_iff.mpr ⟨ring, new, rs⟩
  | rsProcess => exact Channel.wf_iff.mpr ⟨ring, filter, rsBlock_wf _ _ rs⟩
  | rbCopyLatest | rbNewDataSince | rbCapacity | rbCount | chSetCal | dfKind | dfParams => exact h

/-! ### Step 0 of a block -/

theorem F64.isFinite_san (v : F64) : (F64.san v).isFinite = true := by
  unfold F64.san
  split
  · assumption
  · rfl

/-- A firewall stands after each stage of step 0, so its results are finite (42_channel_stage.md R213). -/
theorem stageChannel_finite (t : Tables) (factor : Int) (ch : Channel) (raw : List F64) :
    ∀ v ∈ (stageChannel t factor ch raw).2, v.isFinite = true := by
  have sanitised {vs : List F64} : ∀ v ∈ vs.map F64.san, v.isFinite = true := by simp [F64.isFinite_san]
  simp only [stageChannel, stageResample]
  split
  · simp only [stageFilter]
    split
    · simp [F64.isFinite_san]
    · exact sanitised
  · exact sanitised

theorem stageChannel_wf (t : Tables) {wMax : Nat} {factor : Int} {cap : Nat} {ch : Channel} (raw : List F64)
    (h : ch.wf wMax factor cap = true) : (stageChannel t factor ch raw).1.wf wMax factor cap = true := by
  obtain ⟨ring, filter, rs⟩ := Channel.wf_iff.mp h
  refine Channel.wf_iff.mpr ⟨ring, ?_, ?_⟩
  · simp only [stageChannel, stageFilter]
    split
    · exact filter
    · exact dfBlock_wf _ filter
  · simp only [stageChannel, stageResample]
    split
    · exact rs
    · exact rsBlock_wf _ _ rs

/-! ### In-flight records -/

theorem Flight.wf_iff {cr : Params} {f : Flight} :
    f.wf cr = true ↔ f.snapshot.wf cr = true ∧ f.pending ≠ [] ∧ (f.pending.map Prod.fst).Nodup ∧
      ∀ p ∈ f.pending, p.1.toNat < cr.nch ∧ ∀ v ∈ p.2, v.isFinite = true := by
  simp only [Flight.wf, Bool.and_eq_true, Bool.not_eq_true', List.isEmpty_eq_false_iff, decide_eq_true_eq, List.all_eq_true,
    and_assoc, ne_eq]

theorem pending_ne_nil_of_wf {cr : Params} {f : Flight} (h : f.wf cr = true) : f.pending ≠ [] := by
  obtain ⟨-, hp, -⟩ := Flight.wf_iff.mp h
  exact hp

/-- A commit leaves a record with something to commit, or none. -/
theorem pending_ne_nil_of_mem_dropPending {a : Nat} {c : BitVec 8} {fs : List Flight} (h : ∀ f ∈ fs, f.pending ≠ []) :
    ∀ f ∈ dropPending a c fs, f.pending ≠ [] := by
  induction fs with
  | nil => exact h
  | cons g rest ih =>
      obtain ⟨hg, hrest⟩ := List.forall_mem_cons.mp h
      simp only [dropPending]
      split
      · split
        · exact hrest
        · next left => exact List.forall_mem_cons.mpr ⟨by simpa using left, hrest⟩
      · exact List.forall_mem_cons.mpr ⟨hg, ih hrest⟩

theorem agents_dropPending_sublist (a : Nat) (c : BitVec 8) (fs : List Flight) :
    ((dropPending a c fs).map Flight.agent).Sublist (fs.map Flight.agent) := by
  induction fs with
  | nil => exact .slnil
  | cons g rest ih =>
      simp only [dropPending]
      split
      · split
        · exact List.sublist_cons_self ..
        · exact .refl _
      · exact ih.cons_cons _

/-- The records left after a commit step. -/
theorem dropPending_wf {cr : Params} {a : Nat} {c : BitVec 8} {fs : List Flight} (h : ∀ f ∈ fs, f.wf cr = true) :
    ∀ f ∈ dropPending a c fs, f.wf cr = true := by
  intro f hf
  obtain ⟨g, hg, -, hsnap, hsub⟩ := mem_dropPending hf
  obtain ⟨snapshot, -, nodup, entries⟩ := Flight.wf_iff.mp (h g hg)
  have left := pending_ne_nil_of_mem_dropPending (fun k hk => pending_ne_nil_of_wf (h k hk)) f hf
  exact Flight.wf_iff.mpr ⟨hsnap ▸ snapshot, left, nodup.sublist (hsub.map _), fun p hp => entries p (hsub.subset hp)⟩

/-- An agent with no commit to make has no record. -/
theorem agent_ne_of_nextPending_eq_none {a : Nat} {fs : List Flight} (h : ∀ f ∈ fs, f.pending ≠ [])
    (hn : nextPending a fs = none) : ∀ f ∈ fs, f.agent ≠ a := by
  cases hfind : fs.find? (fun f => f.agent == a) with
  | none => simpa using List.find?_eq_none.mp hfind
  | some g =>
      have hg : g.pending ≠ [] := h g (List.mem_of_find?_eq_some hfind)
      simp only [nextPending, hfind, Option.bind_some, Option.map_eq_none_iff, List.head?_eq_none_iff] at hn
      exact absurd hn hg

theorem Snapshot.wf_iff {cr : Params} {g : Snapshot} :
    g.wf cr = true ↔ g.channels.length = cr.nch ∧ (∀ c ∈ g.channels, filterLegal cr.wMax c.kind c.params = true) ∧
      factorLegal g.factor = true := by
  simp only [Snapshot.wf, Bool.and_eq_true, decide_eq_true_eq, List.all_eq_true, and_assoc]

/-- The entries a block leaves: each channel once, as long as an index fits its 8 bits. -/
theorem indexed_wf {outs : List (List F64)} (hlen : outs.length ≤ 256)
    (hfin : ∀ out ∈ outs, ∀ v ∈ out, v.isFinite = true) :
    ((indexed outs).map Prod.fst).Nodup ∧
      ∀ p ∈ indexed outs, p.1.toNat < outs.length ∧ ∀ v ∈ p.2, v.isFinite = true := by
  have toNat {c : Nat} (hc : c < outs.length) : (BitVec.ofNat 8 c).toNat = c := by
    rw [BitVec.toNat_ofNat]
    exact Nat.mod_eq_of_lt (by omega)
  constructor
  · refine List.nodup_iff_injective_getElem.mpr fun i j hij => Fin.ext ?_
    have hi : i.val < outs.length := by simpa [indexed] using i.isLt
    have hj : j.val < outs.length := by simpa [indexed] using j.isLt
    have heq : BitVec.ofNat 8 i.val = BitVec.ofNat 8 j.val := by simpa [indexed] using hij
    rw [← toNat hi, ← toNat hj, heq]
  · intro p hp
    obtain ⟨c, hc, rfl⟩ := List.mem_mapIdx.mp hp
    exact ⟨by rw [toNat hc]; exact hc, hfin _ (List.getElem_mem hc)⟩

/-! ### The state -/

/-- `State.instanceWf` clause by clause, its channels by index. -/
structure InstanceWf (s : State) : Prop where
  legal : s.cr.legal = true
  residue : s.res.length ≤ s.cr.residueCap
  factor : factorLegal s.factor = true
  count : s.chans.length = s.cr.nch
  channels : ∀ (c : Nat) (ch : Channel), s.chans[c]? = some ch → ch.wf s.cr.wMax s.factor (s.cr.caps.getD c 0) = true
  agents : (s.flights.map Flight.agent).Nodup
  records : ∀ f ∈ s.flights, f.wf s.cr = true

/-- The bounds of legal construction parameters on the channels (00_scope.md R5). -/
theorem legal_bounds {p : Params} (h : p.legal = true) :
    1 ≤ p.nch ∧ p.nch ≤ 256 ∧ p.caps.length = p.nch ∧ ∀ cap ∈ p.caps, 1 ≤ cap := by
  obtain ⟨h1, h2, h3, h4, -⟩ := (legalConstruction p).mp h
  exact ⟨h1, h2, h3, h4⟩

/-- A check of each channel with its capacity, by index. -/
theorem all_zip_iff {caps : List Nat} {chans : List Channel} {p : Nat → Channel → Bool} (hlen : caps.length = chans.length) :
    (List.zip caps chans).all (fun q => p q.1 q.2) = true ↔
      ∀ (c : Nat) (ch : Channel), chans[c]? = some ch → p (caps.getD c 0) ch = true := by
  rw [List.all_eq_true]
  constructor
  · intro h c ch hc
    obtain ⟨hl, -⟩ := List.getElem?_eq_some_iff.mp hc
    have hcap : caps[c]? = some (caps.getD c 0) := by simp [List.getD, hlen, hl]
    exact h (_, ch) (List.mem_of_getElem? (List.getElem?_zip_eq_some.mpr ⟨hcap, hc⟩))
  · intro h q hq
    obtain ⟨c, hc⟩ := List.mem_iff_getElem?.mp hq
    obtain ⟨hcap, hch⟩ := List.getElem?_zip_eq_some.mp hc
    simpa [List.getD, hcap] using h c q.2 hch

theorem State.instanceWf_iff {s : State} : s.instanceWf = true ↔ InstanceWf s := by
  have hlen (legal : s.cr.legal = true) (count : s.chans.length = s.cr.nch) : s.cr.caps.length = s.chans.length := by
    obtain ⟨-, -, hcaps, -⟩ := legal_bounds legal
    rw [count, hcaps]
  simp only [State.instanceWf, Bool.and_eq_true, decide_eq_true_eq, and_assoc]
  constructor
  · rintro ⟨legal, residue, factor, count, channels, agents, records⟩
    exact ⟨legal, residue, factor, count, (all_zip_iff (hlen legal count)).mp channels, agents, List.all_eq_true.mp records⟩
  · rintro ⟨legal, residue, factor, count, channels, agents, records⟩
    exact ⟨legal, residue, factor, count, (all_zip_iff (hlen legal count)).mpr channels, agents, List.all_eq_true.mpr records⟩

theorem State.wf_iff {s : State} : s.wf = true ↔ s.tables.wf = true ∧ (s.ready = true → InstanceWf s) := by
  rw [← State.instanceWf_iff, State.wf]
  cases s.ready <;> simp

end Sys2Proof.Machine
end

section
/-! PROOFS. The invariant as a whole: SYS_RESET establishes it, every effect and every commit step keeps it, and so does every step. -/

namespace Sys2Proof.Machine

theorem InstanceWf.chan {s : State} {c : BitVec 8} {ch : Channel} (w : InstanceWf s) (h : s.chan? c = some ch) :
    ch.wf s.cr.wMax s.factor (s.cap c) = true :=
  w.channels _ _ (State.chan?_eq_some.mp h).2

/-- A well-formed channel stored in place of one. -/
theorem InstanceWf.setChan {s : State} {c : BitVec 8} {ch : Channel} (w : InstanceWf s)
    (h : ch.wf s.cr.wMax s.factor (s.cap c) = true) : InstanceWf (s.setChan c ch) :=
  { w with
    count := by simpa using w.count
    channels := fun d old hd => by
      rw [State.setChan_chans, List.getElem?_set] at hd
      split at hd
      · next hcd =>
        split at hd
        · cases hd; subst hcd; exact h
        · cases hd
      · exact w.channels d old hd }

/-- SYS_RESET with legal parameters (10_state.md R33). -/
theorem instanceWf_construct (s : State) {p : Params} (h : p.legal = true) : InstanceWf (s.construct p) := by
  obtain ⟨-, -, hlen, hcaps⟩ := legal_bounds h
  refine ⟨h, Nat.zero_le _, rfl, by simpa using hlen, fun c ch hc => ?_, .nil, nofun⟩
  rw [State.construct_chans, List.getElem?_map, Option.map_eq_some_iff] at hc
  obtain ⟨cap, hcap, rfl⟩ := hc
  have hc : (s.construct p).cr.caps.getD c 0 = cap := by simp [List.getD, hcap]
  rw [hc]
  exact Channel.reset_wf (hcaps cap (List.mem_of_getElem? hcap))

theorem length_capResidue_le (cap : Nat) (r : List Byte) : (capResidue cap r).length ≤ cap := by
  rw [capResidue, List.length_drop]
  omega

/-- New resamplers for every channel, and perhaps another factor (44_resampler.md R291, R292). -/
theorem InstanceWf.resetResamplers {s : State} {k : Int} (w : InstanceWf s) (hk : factorLegal k = true) (reply : Reply) :
    InstanceWf { s with factor := k, chans := resetResamplers s.chans, reply := reply } :=
  { w with
    factor := hk
    count := by simpa [Machine.resetResamplers] using w.count
    channels := fun c ch hc => by
      rw [getElem?_resetResamplers, Option.map_eq_some_iff] at hc
      obtain ⟨old, hold, rfl⟩ := hc
      obtain ⟨ring, filter, -⟩ := Channel.wf_iff.mp (w.channels c old hold)
      exact Channel.wf_iff.mpr ⟨ring, filter, Resamp.reset_wf k⟩ }

/-- The settings in force make a legal snapshot. -/
theorem InstanceWf.snapshot {s : State} (w : InstanceWf s) : s.snapshot.wf s.cr = true := by
  refine Snapshot.wf_iff.mpr ⟨by simpa using w.count, fun g hg => ?_, w.factor⟩
  obtain ⟨ch, hch, rfl⟩ := List.mem_map.mp hg
  obtain ⟨c, hc⟩ := List.mem_iff_getElem?.mp hch
  obtain ⟨-, filter, -⟩ := Channel.wf_iff.mp (w.channels c ch hc)
  exact (DFilter.wf_iff.mp filter).1

/-- What step 0 answers comes from a channel that was there. -/
theorem exists_of_getElem?_stageAll {t : Tables} {factor : Int} {chans : List Channel} {samples : List (List F64)} {c : Nat}
    {o : Channel × List F64} (h : (stageAll t factor chans samples)[c]? = some o) :
    ∃ ch raw, chans[c]? = some ch ∧ o = stageChannel t factor ch raw := by
  obtain ⟨ch, raw, hch, -, rfl⟩ := List.getElem?_zipWith_eq_some.mp h
  exact ⟨ch, raw, hch, rfl⟩

/-- Step 0 of a block whose agent has none in flight (42_channel_stage.md R214, R217). -/
theorem InstanceWf.processBlock {s : State} {samples : List (List F64)} (w : InstanceWf s) (hlen : samples.length = s.cr.nch)
    (fresh : ∀ f ∈ s.flights, f.agent ≠ s.turn) :
    InstanceWf { s with
      chans := (stageAll s.tables s.factor s.chans samples).map Prod.fst
      flights := s.flights ++ [⟨s.turn, s.snapshot, indexed ((stageAll s.tables s.factor s.chans samples).map Prod.snd)⟩]
      reply := .none } := by
  have count : (stageAll s.tables s.factor s.chans samples).length = s.cr.nch := by simp [stageAll, w.count, hlen]
  obtain ⟨hpos, hmax, -, -⟩ := legal_bounds w.legal
  refine { w with
    count := by simpa using count
    channels := fun c ch hc => ?_
    agents := ?_
    records := ?_ }
  · rw [List.getElem?_map, Option.map_eq_some_iff] at hc
    obtain ⟨o, ho, rfl⟩ := hc
    obtain ⟨old, raw, hold, rfl⟩ := exists_of_getElem?_stageAll ho
    exact stageChannel_wf _ raw (w.channels c old hold)
  · rw [List.map_append, List.nodup_append]
    refine ⟨w.agents, List.nodup_singleton _, fun a ha b hb => ?_⟩
    obtain ⟨f, hf, rfl⟩ := List.mem_map.mp ha
    obtain rfl := List.mem_singleton.mp hb
    exact fresh f hf
  · refine List.forall_mem_append.mpr ⟨w.records, List.forall_mem_singleton.mpr (Flight.wf_iff.mpr ⟨w.snapshot, ?_, ?_⟩)⟩
    · refine List.ne_nil_of_length_pos ?_
      simp only [indexed, List.length_mapIdx, List.length_map, count]
      omega
    · have outs : ∀ out ∈ (stageAll s.tables s.factor s.chans samples).map Prod.snd, ∀ v ∈ out, v.isFinite = true := by
        intro out hout
        obtain ⟨o, ho, rfl⟩ := List.mem_map.mp hout
        obtain ⟨c, hc⟩ := List.mem_iff_getElem?.mp ho
        obtain ⟨ch, raw, -, rfl⟩ := exists_of_getElem?_stageAll hc
        exact stageChannel_finite _ _ ch raw
      simpa [count] using indexed_wf (by simpa [count] using hmax) outs

/-- Every operation keeps the invariant, `CH_PROCESS_BLOCK` if its agent has no block in flight. -/
theorem Effect.wf {s t : State} {i : Instr} (e : Effect s i t) (h : s.wf = true)
    (fresh : s.ready = true → ∀ f ∈ s.flights, f.agent ≠ s.turn) : t.wf = true := by
  obtain ⟨tables, w⟩ := State.wf_iff.mp h
  refine State.wf_iff.mpr ?_
  cases e with
  | sysReset legal => exact ⟨tables, fun _ => instanceWf_construct s legal⟩
  | fpDiscard ready => exact ⟨tables, fun _ => { w ready with residue := Nat.zero_le _ }⟩
  | fpParse ready => exact ⟨tables, fun _ => { w ready with residue := length_capResidue_le .. }⟩
  | chProcessBlock ready count _ => exact ⟨tables, fun _ => (w ready).processBlock count (fresh ready)⟩
  | rsKeepFactor ready => exact ⟨tables, fun _ => { w ready with }⟩
  | rsSetFactor ready legal => exact ⟨tables, fun _ => (w ready).resetResamplers legal .none⟩
  | rsReset ready => exact ⟨tables, fun _ => (w ready).resetResamplers (w ready).factor .none⟩
  | channel ready there effect =>
      exact ⟨tables, fun _ => { (w ready).setChan (effect.wf ((w ready).chan there)) with }⟩

/-- A commit step keeps the invariant. -/
theorem commitStep_wf {s t : State} {a : Nat} {c : BitVec 8} (hs : s.wf = true) (h : commitStep s a c = .next t) :
    t.wf = true := by
  obtain ⟨-, rfl⟩ | ⟨values, ch, r, -, ready, there, room, rfl⟩ := commitStep_next h
  · exact hs
  · obtain ⟨tables, hw⟩ := State.wf_iff.mp hs
    have w := hw ready
    obtain ⟨ring, filter, rs⟩ := Channel.wf_iff.mp (w.chan there)
    have appended := w.setChan (ch := { ch with ring := r }) (Channel.wf_iff.mpr ⟨Ring.wf_append ring room, filter, rs⟩)
    exact State.wf_iff.mpr ⟨tables, fun _ =>
      { appended with
        agents := w.agents.sublist (agents_dropPending_sublist ..)
        records := dropPending_wf w.records }⟩

/-- The schedule and the turn are no part of the invariant. -/
theorem State.wf_schedule (s : State) (inbox : List Event) (turn : Nat) : { s with inbox := inbox, turn := turn }.wf = s.wf := rfl

/-- Settles O5: commit steps and operations keep the invariant; an operation that is performed finds no record of its agent. -/
theorem stepKeepsWellFormed : Obligations.StepKeepsWellFormed := by
  unfold Obligations.StepKeepsWellFormed
  intro s t hs h
  rcases step_next h with ⟨-, hd⟩ | ⟨a, c, rest, -, hc⟩ | ⟨a, cmd, rest, c, -, -, hc⟩ | ⟨a, cmd, rest, i, -, idle, -, he⟩
  · obtain rfl | ⟨f, rest, p, more, -, -, hc⟩ := drainStep_next hd
    · exact hs
    · exact commitStep_wf hs hc
  · exact commitStep_wf (s := { s with inbox := rest }) hs hc
  · exact commitStep_wf hs hc
  · refine (effect_of_exec he).wf ((s.wf_schedule rest a).trans hs) fun ready => ?_
    obtain ⟨-, hw⟩ := State.wf_iff.mp hs
    have pending : ∀ f ∈ s.flights, f.pending ≠ [] := fun f hf => pending_ne_nil_of_wf ((hw ready).records f hf)
    exact agent_ne_of_nextPending_eq_none pending (State.inFlight_of_ready ready ▸ idle)

theorem Tables.reference_wf : Tables.reference.wf = true := by decide

/-- Settles O4: the state after reset is what SYS_RESET makes with the default parameters, over the reference tables. -/
theorem resetIsWellFormed : Obligations.ResetIsWellFormed :=
  State.wf_iff.mpr ⟨Tables.reference_wf, fun _ => instanceWf_construct State.powerOn (p := Params.default) (by decide)⟩

end Sys2Proof.Machine
end

section
/-! PROOFS. The two halves of CH_PROCESS_BLOCK (42_channel_stage.md R214): step 0, stage by stage, and the commit step. -/

namespace Sys2Proof.Machine

theorem blockRectangular_of_length_eq {samples : List (List F64)} (h : ∀ a ∈ samples, ∀ b ∈ samples, a.length = b.length) :
    blockRectangular samples = true := by
  cases samples with
  | nil => rfl
  | cons a rest => exact List.all_eq_true.mpr fun b hb => decide_eq_true (h b (List.mem_cons_of_mem a hb) a List.mem_cons_self)

/-- Step 0 of a block that is not refused. -/
theorem execChProcessBlock_eq {s : State} {samples : List (List F64)} (ready : s.ready = true) (count : samples.length = s.cr.nch)
    (rect : ∀ a ∈ samples, ∀ b ∈ samples, a.length = b.length) :
    exec (.chProcessBlock samples) s = .next
      { s with
        chans := (stageAll s.tables s.factor s.chans samples).map Prod.fst
        flights := s.flights ++ [⟨s.turn, s.snapshot, indexed ((stageAll s.tables s.factor s.chans samples).map Prod.snd)⟩]
        reply := .none } :=
  (whenReady_of_ready ready _).trans (if_pos ⟨count, blockRectangular_of_length_eq rect⟩)

theorem DFilter.kind_eq_zero {f : DFilter} : f.kind = 0 ↔ f = .none := by
  cases f <;> simp [DFilter.kind]

theorem dfBlock_none (xs : List F64) : dfBlock .none xs = (.none, xs) := by
  induction xs with
  | nil => rfl
  | cons x xs ih => simp only [dfBlock, dfStep, ih]

/-- The filter part of step 0 by the block through the filter, which without a filter is the identity (43_digitalfilter.md
R232). -/
theorem stageFilter_eq (f : DFilter) (a : List F64) :
    stageFilter f a = ((dfBlock f a).1, if f.kind = 0 then a else (dfBlock f a).2.map F64.san) := by
  unfold stageFilter
  split
  · next h => rw [DFilter.kind_eq_zero.mp h, dfBlock_none]
  · rfl

/-- The resampler part of step 0 by RS_PROCESS, which bypasses the block at factor 0 (44_resampler.md R286). -/
theorem stageResample_eq (t : Tables) (factor : Int) (r : Resamp) (b : List F64) :
    stageResample t factor r b =
      ((rsBlock t factor r b).1, if factor = 0 then b else (rsBlock t factor r b).2.map F64.san) := by
  unfold stageResample
  split
  · next h => rw [rsBlock, if_pos h]
  · rfl

theorem getElem?_indexed {outs : List (List F64)} {c : Nat} {out : List F64} (h : outs[c]? = some out) :
    (indexed outs)[c]? = some (BitVec.ofNat 8 c, out) := by
  simp [indexed, h]

/-- Settles O37: step 0 stage by stage. -/
theorem processBlockComputes : Obligations.ProcessBlockComputes := by
  unfold Obligations.ProcessBlockComputes
  refine ⟨fun neg m v => ⟨rfl, rfl, rfl⟩, fun s c ch x ready there => onChannel_of_chan ready there _,
    fun s samples ready hchans hcount rect => ?_⟩
  have hlen : (stageAll s.tables s.factor s.chans samples).length = s.cr.nch := by simp [stageAll, hchans, hcount]
  refine ⟨_, indexed ((stageAll s.tables s.factor s.chans samples).map Prod.snd), execChProcessBlock_eq ready hcount rect, rfl,
    by simpa using hlen, by simpa [indexed] using hlen, fun c ch raw hch hraw => ?_⟩
  obtain ⟨hc, rfl⟩ := List.getElem?_eq_some_iff.mp hraw
  have staged := getElem?_stageAll (t := s.tables) (factor := s.factor) hch hc
  have out : ((stageAll s.tables s.factor s.chans samples).map Prod.snd)[c]? =
      some (stageChannel s.tables s.factor ch samples[c]).2 := by
    rw [List.getElem?_map, staged, Option.map_some]
  simp only [getElem?_indexed out, List.getElem?_map, staged, Option.map_some, stageChannel, stageResample_eq, stageFilter_eq,
    calibrate, Channel.settings_gain, Channel.settings_offset, and_self]

/-- A commit step for the next entry of a record, with room in `TOTAL`. -/
theorem commitStep_of_pendingAt {s : State} {a : Nat} {c : BitVec 8} {values : List F64} {ch : Channel} {before after : List Flight}
    {f : Flight} {pre post : List (BitVec 8 × List F64)} (ready : s.ready = true) (there : s.chan? c = some ch)
    (pending : PendingAt s.flights before f after a pre c values post) (room : ch.ring.total.toNat + values.length < 2 ^ 64) :
    commitStep s a c = .next { s with
      chans := s.chans.set c.toNat { ch with ring := values.foldl (Ring.add (s.cap c)) ch.ring }
      flights := afterCommit before f after pre post } := by
  simp only [commitStep, State.inFlight_of_ready ready, pending.findPending, onChannel_of_chan ready there,
    Ring.append_eq_some.mpr ⟨room, rfl⟩, pending.dropPending, State.setChan]

/-- Settles O40: the three ways a commit step is brought. -/
theorem commitStepAppends : Obligations.CommitStepAppends := by
  unfold Obligations.CommitStepAppends
  intro s agent c values ch before after f pre post ready there pending room
  have committed := commitStep_of_pendingAt ready there pending room
  refine ⟨?_, fun rest hi => ?_, fun cmd rest hi hpre => ?_, fun hi hbefore hpre => ?_, fun k hk => ?_⟩
  · simp only [exec, execRbAddRange, onChannel_of_chan ready there, Ring.append_eq_some.mpr ⟨room, rfl⟩, State.setRing,
      State.setChan, State.answer]
  · simp only [step, hi, performEvent]
    exact commitStep_of_pendingAt (s := { s with inbox := rest }) ready there pending room
  · subst hpre
    simp only [step, hi, performEvent, State.inFlight_of_ready ready, pending.nextPending, committed]
  · subst hbefore hpre
    simp only [step, hi, drainStep, State.inFlight_of_ready ready, pending.record, List.nil_append, pending.entry, pending.agent,
      committed]
  · exact mem_dropPending (a := agent) (c := c) (pending.dropPending ▸ hk)

end Sys2Proof.Machine
end

section
/-! PROOFS. What one step does with the schedule (20_memory.md R80, R82): an operation of an idle agent, and waiting. -/

namespace Sys2Proof.Machine

theorem performCommand_of_decode_ok {cmd : Command} {i : Instr} (decoded : decode cmd = .ok i) (agent : Nat) (s : State) :
    performCommand agent cmd s = exec i { s with turn := agent } := by
  simp only [performCommand, decoded]

theorem performCommand_of_decode_error {cmd : Command} {e : DecodeError} (decoded : decode cmd = .error e) (agent : Nat)
    (s : State) : performCommand agent cmd s = .refused (Refusal.ofDecode e) := by
  simp only [performCommand, decoded]

/-- The event of an agent without a block in flight leaves the schedule and its command is performed. -/
theorem step_of_issue_idle {s : State} {agent : Nat} {cmd : Command} {rest : List Event}
    (next : s.inbox = .issue agent cmd :: rest) (idle : nextPending agent s.inFlight = none) :
    step s = performCommand agent cmd { s with inbox := rest } := by
  simp only [step, next, performEvent, idle]

/-- The converse of `agent_ne_of_nextPending_eq_none`, for records with or without a pending commit. -/
theorem nextPending_eq_none_of_agent_ne {agent : Nat} {flights : List Flight} (other : ∀ f ∈ flights, f.agent ≠ agent) :
    nextPending agent flights = none := by
  have notFound : flights.find? (fun f => f.agent == agent) = none := List.find?_eq_none.mpr (by simpa using other)
  rw [nextPending, notFound, Option.bind_none]

/-- A block between its steps is one of the records. -/
theorem State.mem_flights_of_mem_inFlight {s : State} {f : Flight} (h : f ∈ s.inFlight) : f ∈ s.flights := by
  cases ready : s.ready with
  | true => exact State.inFlight_of_ready ready ▸ h
  | false =>
      rw [State.inFlight_of_not_ready ready] at h
      cases h

theorem drainStep_of_inFlight_nil {s : State} (idle : s.inFlight = []) : drainStep s = .next s := by
  simp only [drainStep, idle]

/-- Settles O6: the schedule's event reaches `exec` through `performCommand`, and an agent without a record is idle. -/
theorem stepRunsDecoded : Obligations.StepRunsDecoded := by
  unfold Obligations.StepRunsDecoded
  refine ⟨fun s agent cmd rest i next idle decoded => ?_, fun s agent cmd rest e next idle decoded => ?_,
    fun s agent noRecord => ?_, fun s noEvent idle => ?_⟩
  · rw [step_of_issue_idle next idle, performCommand_of_decode_ok decoded]
  · rw [step_of_issue_idle next idle, performCommand_of_decode_error decoded]
  · rcases noRecord with beforeReset | other
    · rw [State.inFlight_of_not_ready beforeReset]
      rfl
    · exact nextPending_eq_none_of_agent_ne fun f hf => other f (State.mem_flights_of_mem_inFlight hf)
  · rw [step, noEvent]
    exact drainStep_of_inFlight_nil idle

end Sys2Proof.Machine
end

section
/-! PROOFS. The encoding of commands (30_encoding.md R116 to R118): decode and encode agree, and what names no operation. -/

namespace Sys2Proof

open Machine

/-- A word is the `op` it carries and its channel (R116). -/
theorem commandWord_of_toNat_opOf {w : BitVec 16} {op : BitVec 8} (hop : (opOf w).toNat = op.toNat) :
    commandWord op (chanOf w) = w := by
  rw [← BitVec.eq_of_toNat_eq hop, commandWord_opOf_chanOf]

theorem commandWord_zero_of_chanOf {w : BitVec 16} {op : BitVec 8} (hop : (opOf w).toNat = op.toNat) (hchan : chanOf w = 0) :
    commandWord op 0 = w := by
  rw [← hchan, commandWord_of_toNat_opOf hop]

/-- An operation without a channel is read exactly from words whose `chan` is 0 (R118). -/
theorem channelFree_eq_ok {w : BitVec 16} {i j : Instr} : channelFree w i = .ok j ↔ chanOf w = 0 ∧ i = j := by
  unfold channelFree
  split <;> simp_all

theorem channelFree_of_ne {w : BitVec 16} (h : chanOf w ≠ 0) (i : Instr) : channelFree w i = .error .channelNotZero := by
  rw [channelFree, if_neg h]

/-- The decoder reads an encoded operation back as its base row. -/
theorem decode_encode (i : Instr) : decode (encode i) = .ok i.base := by
  cases i <;> simp [decode, encode, channelFree, Instr.base]

/-- A command that decodes is the one the encoder writes, and decodes to a base row. -/
theorem encode_of_decode {cmd : Command} {i : Instr} (h : decode cmd = .ok i) : encode i = cmd ∧ i.base = i := by
  obtain ⟨w, operands⟩ := cmd
  unfold decode at h
  dsimp only at h
  split at h
  case h_1 hop | h_9 hop | h_10 hop | h_18 hop | h_19 hop =>
    -- the operations without a channel
    split at h
    · obtain ⟨hchan, rfl⟩ := channelFree_eq_ok.mp h
      exact ⟨by rw [encode, commandWord_zero_of_chanOf hop hchan], rfl⟩
    · cases h
  case h_20 => cases h
  all_goals
    split at h
    · cases h
      exact ⟨by rw [encode, commandWord_of_toNat_opOf ‹_›], rfl⟩
    · cases h

/-- Settles O7: the round trip in both directions. -/
theorem decodeEncodeAgree : Obligations.DecodeEncodeAgree := by
  unfold Obligations.DecodeEncodeAgree
  exact ⟨decode_encode, fun _ _ => encode_of_decode⟩

/-- The `op` codes of the map (R117). -/
def opCodes : List Nat :=
  [0x00, 0x10, 0x11, 0x12, 0x13, 0x14, 0x15, 0x16, 0x20, 0x30, 0x31, 0x40, 0x41, 0x42, 0x43, 0x44, 0x50, 0x51, 0x52]

/-- Outside the map every command is rejected, whatever its operands. -/
theorem decode_of_op_not_mem {cmd : Command} (h : (opOf cmd.word).toNat ∉ opCodes) : decode cmd = .error .reservedOp := by
  unfold decode
  dsimp only
  split
  case h_20 => rfl
  all_goals exact absurd (by rw [‹(opOf cmd.word).toNat = _›]; decide) h

/-- An operation without a channel is rejected under a non-zero `chan`, by its channel or before that by its operands. -/
theorem decode_of_chan_ne_zero {cmd : Command} (hop : (opOf cmd.word).toNat ∈ [0x00, 0x20, 0x30, 0x51, 0x52])
    (hchan : chanOf cmd.word ≠ 0) : decode cmd = .error .channelNotZero ∨ decode cmd = .error .wrongOperands := by
  obtain ⟨w, operands⟩ := cmd
  simp only [List.mem_cons, List.not_mem_nil, or_false] at hop
  unfold decode
  rcases hop with hop | hop | hop | hop | hop
  all_goals
    simp only [hop, channelFree_of_ne hchan]
    cases operands <;> simp

/-- Settles O8: `opCodes` is the map, and the operations without a channel check it. -/
theorem reservedWordsRejected : Obligations.ReservedWordsRejected := by
  unfold Obligations.ReservedWordsRejected
  exact fun cmd => ⟨decode_of_op_not_mem, decode_of_chan_ne_zero⟩

/-- Settles O9: the decoder run on each word. -/
theorem writtenWordsDecode : Obligations.WrittenWordsDecode := by
  unfold Obligations.WrittenWordsDecode
  decide

end Sys2Proof

namespace Sys2Proof.Machine

/-- Settles O10: the lemma by which effects are stated for base rows only. -/
theorem variantDoesAsBase : Obligations.VariantDoesAsBase := by
  unfold Obligations.VariantDoesAsBase
  exact exec_eq_exec_base

/-- An operation that names a channel runs on that channel. -/
theorem exec_eq_onChannel {i : Instr} {c : BitVec 8} (h : channelOf i = some c) (s : State) :
    ∃ go, exec i s = onChannel s c go := by
  rw [exec_eq_exec_base]
  cases i with
  | sysReset | fpParse | fpParseBin | fpParseAscii | chProcessBlock | rsSetFactor | rsReset => cases h
  | _ => cases h; exact ⟨_, rfl⟩

/-- Settles O11: such an operation refuses the channel that is not there. -/
theorem absentChannelRefused : Obligations.AbsentChannelRefused := by
  unfold Obligations.AbsentChannelRefused
  refine ⟨fun s i c hi ready absent => ?_, fun s c => rfl⟩
  obtain ⟨go, hgo⟩ := exec_eq_onChannel hi s
  rw [hgo, onChannel_of_none ready (if_neg absent.not_gt)]

end Sys2Proof.Machine
end

section
/-! PROOFS. Binary elements (30_encoding.md R104 to R107): the number the bytes spell, and the binary32 word widened. -/

namespace Sys2Proof

open Machine

/-! ### Assembly -/

/-- The value of bytes is the sum of their weights. -/
theorem littleValue_eq_sum (e : List Byte) :
    littleValue e = ∑ k ∈ Finset.range e.length, (e.getD k 0).toNat * 2 ^ (8 * k) := by
  induction e with
  | nil => rfl
  | cons b rest ih =>
      have hweight (k : Nat) : (rest.getD k 0).toNat * 2 ^ (8 * (k + 1)) = 256 * ((rest.getD k 0).toNat * 2 ^ (8 * k)) := by
        rw [Nat.mul_succ, pow_add]
        ring
      rw [littleValue, ih, List.length_cons, Finset.sum_range_succ', Finset.mul_sum]
      simp only [List.getD_cons_succ, List.getD_cons_zero, hweight, Nat.mul_zero, pow_zero, Nat.mul_one, Nat.add_comm]

/-- The weight of byte `k` of `n` under a byte order, as a power of 2^8 (R106). -/
def byteRank (endian : Endian) (n k : Nat) : Nat :=
  match endian with
  | .little => k
  | .big => n - 1 - k

/-- Either byte order weighs each byte by its place. -/
theorem assemble_eq_sum (endian : Endian) (e : List Byte) :
    assemble endian e = ((List.range e.length).map (fun k => (e.getD k 0).toNat * 2 ^ (8 * byteRank endian e.length k))).sum := by
  cases endian with
  | little => exact littleValue_eq_sum e
  | big =>
      rw [assemble, littleValue_eq_sum, ← Finset.sum_range_reflect, List.length_reverse]
      refine Finset.sum_congr rfl fun k hk => ?_
      have hk : k < e.length := Finset.mem_range.mp hk
      have hmirror : e.length - 1 - (e.length - 1 - k) = k := by omega
      rw [byteRank, List.getD, List.getElem?_reverse (by omega), hmirror, List.getD]

/-- The element types by code: unsigned integers, two's complement integers of the element's width, and binary32 (R104). -/
theorem decodeElem_cases (endian : Endian) {etype : BitVec 3} {e : List Byte} (hlen : e.length = elemWidth etype) :
    (etype.toNat ∈ [0, 2, 4] → decodeElem endian etype e = F64.ofInt (assemble endian e)) ∧
    (etype.toNat ∈ [1, 3, 5] → decodeElem endian etype e = F64.ofInt (signExtend (8 * e.length) (assemble endian e))) ∧
    (etype = 6 → decodeElem endian etype e = F64.ofF32 (BitVec.ofNat 32 (assemble endian e))) := by
  have hcodes : ∀ t : BitVec 3, t = 0 ∨ t = 1 ∨ t = 2 ∨ t = 3 ∨ t = 4 ∨ t = 5 ∨ t = 6 ∨ t = 7 := by decide
  rw [hlen]
  rcases hcodes etype with rfl | rfl | rfl | rfl | rfl | rfl | rfl | rfl <;> simp [decodeElem, elemWidth]

/-- Settles O33: the sum of weights under the byte order, read by the element type. -/
theorem elementsAssemble : Obligations.ElementsAssemble := by
  unfold Obligations.ElementsAssemble
  refine ⟨by decide, fun endian etype e _ hlen => ?_⟩
  have hsum : ((List.range e.length).map (fun k =>
      (e.getD k 0).toNat * 2 ^ (8 * (match endian with | .little => k | .big => e.length - 1 - k)))).sum =
        assemble endian e := by
    rw [assemble_eq_sum]
    rfl
  intro v
  rw [show v = assemble endian e from hsum]
  exact decodeElem_cases endian hlen

/-! ### binary32 -/

/-- An exact value in range, with its sign. -/
theorem F64.ofMag_roundUnits_exact (neg : Bool) {u : Nat} {m : Fin infMag} (hm : F64.magUnits m.val = u) :
    F64.ofMag neg (F64.roundUnits u 1) = .finite neg m := by
  rw [← hm, ← Nat.mul_one (F64.magUnits _), F64.roundUnits_magUnits Nat.one_pos, F64.ofMag, dif_pos m.isLt]

/-- A binary32 significand of at most 24 bits at a binary32 exponent is a finite sample. -/
theorem F64.exists_finite_of_binary32 {t p : Nat} (ht : t < 2 ^ 24) (hp : p < 2 ^ 8) :
    ∃ m : Fin infMag, F64.magUnits m.val = t * 2 ^ p * 2 ^ 925 := by
  obtain ⟨m, hm⟩ := F64.exists_finite_of_natAbs_le (i := t) (p := p + 925) (by omega) (by omega)
  refine ⟨m, ?_⟩
  rw [hm, Nat.mul_assoc, ← pow_add, Int.natAbs_mul, Int.natAbs_pow]
  rfl

/-- The fields of a 32-bit word. -/
theorem F64.ofF32_fields (v : BitVec 32) :
    decide (2 ^ 31 ≤ v.toNat) = v.getLsbD 31 ∧ v.toNat / 2 ^ 23 % 2 ^ 8 = (v.extractLsb' 23 8).toNat ∧
      v.toNat % 2 ^ 23 = (v.extractLsb' 0 23).toNat := by
  refine ⟨?_, ?_, ?_⟩
  · rw [BitVec.getLsbD, Nat.testBit_eq_decide_div_mod_eq]
    have := v.isLt
    exact decide_eq_decide.mpr (by omega)
  · rw [BitVec.extractLsb'_toNat, Nat.shiftRight_eq_div_pow]
  · rw [BitVec.extractLsb'_toNat, Nat.shiftRight_zero]

/-- Settles O35: infinities and NaNs by cases, and every other word an exact value that its rounding keeps. -/
theorem binary32Widens : Obligations.Binary32Widens := by
  unfold Obligations.Binary32Widens
  intro v sign e f
  obtain ⟨hsign, he, hf⟩ := F64.ofF32_fields v
  have hflt : f < 2 ^ 23 := (v.extractLsb' 0 23).isLt
  have helt : e < 2 ^ 8 := (v.extractLsb' 23 8).isLt
  unfold F64.ofF32
  rw [hsign, he, hf]
  refine ⟨fun h255 hzero => ?_, fun h255 hne => ?_, fun hfinite => ?_⟩
  · rw [if_pos h255, if_pos hzero]
  · rw [if_pos h255, if_neg hne]
    rfl
  · rw [if_neg hfinite]
    by_cases hsub : e = 0
    · obtain ⟨m, hm⟩ := F64.exists_finite_of_binary32 (t := f) (p := 0) (by omega) (by decide)
      rw [pow_zero, Nat.mul_one] at hm
      rw [if_pos hsub, if_pos hsub]
      exact ⟨m, F64.ofMag_roundUnits_exact _ hm, hm⟩
    · obtain ⟨m, hm⟩ := F64.exists_finite_of_binary32 (t := 2 ^ 23 + f) (p := e - 1) (by omega) (by omega)
      rw [if_neg hsub, if_neg hsub]
      exact ⟨m, F64.ofMag_roundUnits_exact _ hm, hm⟩

end Sys2Proof
end

section
/-! PROOFS. A block through a filter as repeated DF_APPLY (30_encoding.md R123, 43_digitalfilter.md R230). -/

namespace Sys2Proof.Machine

@[simp] theorem dfBlock_nil (f : DFilter) : dfBlock f [] = (f, []) := rfl

@[simp] theorem dfBlock_cons (f : DFilter) (x : F64) (xs : List F64) :
    dfBlock f (x :: xs) = ((dfBlock (dfStep f x).1 xs).1, (dfStep f x).2 :: (dfBlock (dfStep f x).1 xs).2) := rfl

theorem length_dfBlock (f : DFilter) (xs : List F64) : (dfBlock f xs).2.length = xs.length := by
  induction xs generalizing f with
  | nil => rfl
  | cons x xs ih => simp [ih]

/-- The outputs for a block's first samples are the first outputs. -/
theorem dfBlock_take (f : DFilter) (xs : List F64) (n : Nat) : (dfBlock f (xs.take n)).2 = (dfBlock f xs).2.take n := by
  induction xs generalizing f n with
  | nil => simp
  | cons x xs ih => cases n <;> simp [ih]

theorem exec_dfApply {s : State} {c : BitVec 8} {ch : Channel} (ready : s.ready = true) (there : s.chan? c = some ch) (x : F64) :
    exec (.dfApply c x) s = .next ((s.setFilter c ch (dfStep ch.filter x).1).answer (.sample (dfStep ch.filter x).2)) :=
  onChannel_of_chan ready there _

/-- One DF_APPLY per sample leaves the filter a block leaves, and the block's last output at the result port. -/
theorem execAll_dfApply {s : State} {c : BitVec 8} {ch : Channel} (xs : List F64) (ready : s.ready = true)
    (there : s.chan? c = some ch) :
    ∃ t, execAll (xs.map (Instr.dfApply c)) s = .next t ∧
      t.chan? c = some { ch with filter := (dfBlock ch.filter xs).1 } ∧
      t.reply = ((dfBlock ch.filter xs).2.getLast?.map Reply.sample).getD s.reply := by
  induction xs generalizing s ch with
  | nil => exact ⟨s, rfl, there, rfl⟩
  | cons x xs ih =>
      have stored : ((s.setFilter c ch (dfStep ch.filter x).1).answer (.sample (dfStep ch.filter x).2)).chan? c =
          some { ch with filter := (dfStep ch.filter x).1 } := State.chan?_setChan_self there
      obtain ⟨t, ht, hchan, hreply⟩ := ih (s := (s.setFilter c ch _).answer _) ready stored
      refine ⟨t, ?_, hchan, ?_⟩
      · rw [List.map_cons, execAll, exec_dfApply ready there]
        exact ht
      · rw [hreply, dfBlock_cons, List.getLast?_cons]
        cases (dfBlock (dfStep ch.filter x).1 xs).2.getLast? <;> rfl

/-- Settles O50: the whole block, and the block cut after each sample. -/
theorem blockIsRepeatedApply : Obligations.BlockIsRepeatedApply := by
  unfold Obligations.BlockIsRepeatedApply
  intro s c ch xs ready there
  refine ⟨length_dfBlock _ _, ?_, fun i hi => ?_⟩
  · obtain ⟨t, ht, hchan, -⟩ := execAll_dfApply xs ready there
    exact ⟨t, ht, hchan⟩
  · obtain ⟨t, ht, -, hreply⟩ := execAll_dfApply (xs.take (i + 1)) ready there
    have hlen : i < (dfBlock ch.filter xs).2.length := by rwa [length_dfBlock]
    refine ⟨t, (dfBlock ch.filter xs).2[i], ht, List.getElem?_eq_getElem hlen, ?_⟩
    rw [hreply, dfBlock_take, List.take_succ_eq_append_getElem hlen, List.getLast?_concat]
    rfl

end Sys2Proof.Machine
end

section
/-! PROOFS. The decoders on the streams their formats describe (41_frameparser.md R171 to R181): one round of a decoder's loop on a
frame or a line, then the stream by induction. -/

namespace Sys2Proof.Machine

/-- The marker and the terminator of a legal configuration hold a byte (00_scope.md R5). -/
theorem delimiters_ne_nil_of_legal {cr : Params} (legal : cr.legal = true) : cr.marker ≠ [] ∧ cr.term ≠ [] := by
  have format : cr.formatLegal = true := by
    simp only [Params.legal, Bool.and_eq_true] at legal
    exact legal.2
  obtain ⟨hmarker, -, -, hterm, -⟩ := Params.formatLegal_iff.mp format
  exact ⟨List.length_pos_iff.mp hmarker, List.length_pos_iff.mp hterm⟩

/-- A parse that completes without the exception. -/
theorem exec_fpParse {s : State} {chunk : List Byte} (ready : s.ready = true) (short : chunk.length ≤ s.cr.chunkMax) :
    exec (.fpParse chunk false) s = .next
      { s with
        res := capResidue s.cr.residueCap (selectedDecoder s.cr.mode s.cr (s.res ++ chunk)).2
        reply := .parsed (byChannel s.cr.nch (selectedDecoder s.cr.mode s.cr (s.res ++ chunk)).1) .ok } := by
  simp only [exec, execFpParse, parseWith, whenReady_of_ready ready, if_neg short.not_gt]
  rfl

/-! ### The search -/

/-- A pattern that stands inside the first part of a string stands there in the whole. -/
theorem standsAt_append_right {pat data : List Byte} {i : Nat} (h : i + pat.length ≤ data.length) (rest : List Byte) :
    standsAt pat (data ++ rest) i ↔ standsAt pat data i := by
  unfold standsAt
  rw [List.drop_append_of_le_length (by omega), List.take_append_of_le_length (by simp; omega)]

/-- The leftmost pattern stands behind bytes in which none starts. -/
theorem findAt_append {pat before : List Byte} (rest : List Byte)
    (fresh : ∀ q < before.length, ¬ standsAt pat (before ++ pat) q) :
    findAt pat (before ++ pat ++ rest) = some before.length := by
  refine findAt_eq_some.mpr ⟨by simp, by simp [standsAt], fun q hq => ?_⟩
  rw [standsAt_append_right (by simp; omega)]
  exact fresh q hq

/-! ### Binary frames -/

/-- A frame as it stands in the stream: the bytes before it, its marker, its elements (30_encoding.md R101). -/
def frameBytesOf (cr : Params) (f : List Byte × List (List Byte)) : List Byte := f.1 ++ cr.marker ++ f.2.flatten

/-- The elements of a frame, channel 0 first. -/
def frameValues (cr : Params) (f : List Byte × List (List Byte)) : List F64 := f.2.map (decodeElem cr.endian cr.etype)

/-- One element per channel, each of the element width, and no marker before the frame's own. -/
structure FrameWf (cr : Params) (f : List Byte × List (List Byte)) : Prop where
  count : f.2.length = cr.nch
  width : ∀ e ∈ f.2, e.length = elemWidth cr.etype
  fresh : ∀ q < f.1.length, ¬ standsAt cr.marker (f.1 ++ cr.marker ++ f.2.flatten) q

theorem length_flatten_of_width {w : Nat} {es : List (List Byte)} (h : ∀ e ∈ es, e.length = w) :
    es.flatten.length = es.length * w := by
  rw [List.length_flatten, List.map_congr_left h, List.map_const', List.sum_replicate, smul_eq_mul]

/-- Elements of one width stand at the multiples of it. -/
theorem take_drop_flatten_of_width {w : Nat} {es : List (List Byte)} (h : ∀ e ∈ es, e.length = w) {c : Nat}
    (hc : c < es.length) (rest : List Byte) : ((es.flatten ++ rest).drop (c * w)).take w = es[c] := by
  induction es generalizing c with
  | nil => simp at hc
  | cons e es ih =>
      have he : e.length = w := h e (.head _)
      cases c with
      | zero => simp [← he]
      | succ c =>
          rw [List.flatten_cons, List.append_assoc, Nat.succ_mul, Nat.add_comm, ← List.drop_drop, ← he, List.drop_left, he]
          exact ih (fun e he => h e (.tail _ he)) (Nat.lt_of_succ_lt_succ hc)

/-- The frame of the leftmost marker, if there is one, goes on past the end (41_frameparser.md R173). -/
def NoCompleteFrame (cr : Params) (tail : List Byte) : Prop :=
  ∀ p, standsAt cr.marker tail p → (∀ q < p, ¬ standsAt cr.marker tail q) → tail.length < p + cr.frameBytes

section Frame

variable {cr : Params} {f : List Byte × List (List Byte)}

theorem FrameWf.findAt (wf : FrameWf cr f) (rest : List Byte) :
    findAt cr.marker (frameBytesOf cr f ++ rest) = some f.1.length := by
  rw [frameBytesOf, List.append_assoc]
  exact findAt_append _ fun q hq => by rw [← standsAt_append_right (by simp; omega) f.2.flatten]; exact wf.fresh q hq

theorem FrameWf.length (wf : FrameWf cr f) : (frameBytesOf cr f).length = f.1.length + cr.frameBytes := by
  rw [frameBytesOf, List.length_append, List.length_append, length_flatten_of_width wf.width, wf.count, Nat.add_assoc]
  rfl

theorem FrameWf.decodeFrame (wf : FrameWf cr f) (rest : List Byte) :
    decodeFrame cr (frameBytesOf cr f ++ rest) f.1.length = frameValues cr f := by
  refine List.ext_getElem (by simp [Machine.decodeFrame, frameValues, wf.count]) fun c hc hc' => ?_
  have hc : c < f.2.length := by simpa [frameValues] using hc'
  have hskip : f.1.length + cr.marker.length = (f.1 ++ cr.marker).length := by rw [List.length_append]
  simp only [Machine.decodeFrame, frameValues, List.getElem_map, List.getElem_range]
  rw [frameBytesOf, List.append_assoc, ← List.drop_drop, hskip, List.drop_left, take_drop_flatten_of_width wf.width hc]

/-- One round of the loop on a frame. -/
theorem FrameWf.binaryLoop (wf : FrameWf cr f) (fuel : Nat) (rest : List Byte) :
    binaryLoop cr (fuel + 1) (frameBytesOf cr f ++ rest) =
      (frameValues cr f :: (binaryLoop cr fuel rest).1, (binaryLoop cr fuel rest).2) := by
  have hcomplete : ¬ (frameBytesOf cr f ++ rest).length < f.1.length + cr.frameBytes := by
    rw [List.length_append, wf.length]
    omega
  rw [Machine.binaryLoop, wf.findAt]
  simp only [if_neg hcomplete]
  rw [wf.decodeFrame, ← wf.length, List.drop_left]

end Frame

/-- The loop ends where no frame is complete. -/
theorem binaryLoop_of_incomplete {cr : Params} {tail : List Byte} (incomplete : NoCompleteFrame cr tail)
    (fuel : Nat) : binaryLoop cr fuel tail = ([], tail) := by
  cases fuel with
  | zero => rfl
  | succ fuel =>
      rw [binaryLoop]
      split
      · rfl
      · next p hp =>
        obtain ⟨-, stands, leftmost⟩ := findAt_eq_some.mp hp
        rw [if_pos (incomplete p stands leftmost)]

/-- The loop on a whole stream, with a pass for each frame. -/
theorem binaryLoop_stream {cr : Params} {frames : List (List Byte × List (List Byte))} (wf : ∀ f ∈ frames, FrameWf cr f)
    {tail : List Byte} (incomplete : NoCompleteFrame cr tail)
    {fuel : Nat} (enough : frames.length ≤ fuel) :
    binaryLoop cr fuel (frames.flatMap (frameBytesOf cr) ++ tail) = (frames.map (frameValues cr), tail) := by
  induction frames generalizing fuel with
  | nil => exact binaryLoop_of_incomplete incomplete fuel
  | cons f frames ih =>
      obtain ⟨fuel, rfl⟩ : ∃ n, fuel = n + 1 := ⟨fuel - 1, by simp at enough; omega⟩
      rw [List.flatMap_cons, List.append_assoc, (wf f (.head _)).binaryLoop,
        ih (fun f hf => wf f (.tail _ hf)) (Nat.le_of_succ_le_succ enough)]
      rfl

/-- Pieces that each hold a byte are no more than their bytes. -/
theorem length_le_length_flatMap {α : Type} {g : α → List Byte} {xs : List α} (h : ∀ x ∈ xs, g x ≠ []) :
    xs.length ≤ (xs.flatMap g).length := by
  induction xs with
  | nil => exact Nat.zero_le _
  | cons x xs ih =>
      have hx := List.length_pos_iff.mpr (h x (.head _))
      have hxs := ih fun y hy => h y (.tail _ hy)
      rw [List.flatMap_cons, List.length_append, List.length_cons]
      omega

/-- A stream of frames decodes to their elements and leaves its tail. -/
theorem parseBinary_stream {cr : Params} (marker : cr.marker ≠ []) {frames : List (List Byte × List (List Byte))}
    (wf : ∀ f ∈ frames, FrameWf cr f) {tail : List Byte} (incomplete : NoCompleteFrame cr tail) :
    parseBinary cr (frames.flatMap (frameBytesOf cr) ++ tail) = (frames.map (frameValues cr), tail) := by
  refine binaryLoop_stream wf incomplete ?_
  have hbytes := length_le_length_flatMap (g := frameBytesOf cr) (xs := frames) fun f _ => by simp [frameBytesOf, marker]
  rw [List.length_append]
  omega

/-- The frames of a stream told by channel (R174). -/
theorem byChannel_frameValues {cr : Params} {frames : List (List Byte × List (List Byte))} (wf : ∀ f ∈ frames, FrameWf cr f) :
    byChannel cr.nch (frames.map (frameValues cr)) =
      (List.range cr.nch).map (fun c => frames.map (fun f => decodeElem cr.endian cr.etype (f.2.getD c []))) := by
  refine List.map_congr_left fun c hc => ?_
  rw [List.map_map]
  refine List.map_congr_left fun f hf => ?_
  have hc : c < f.2.length := by rw [(wf f hf).count]; exact List.mem_range.mp hc
  simp [frameValues, List.getD, hc]

/-- Settles O28: the stream decoded, its frames then told by channel. -/
theorem binaryStreamDecodes : Obligations.BinaryStreamDecodes := by
  unfold Obligations.BinaryStreamDecodes
  intro s chunk frames tail ready legal mode short framesWf incomplete hdata
  have wf : ∀ f ∈ frames, FrameWf s.cr f := fun f hf => by
    obtain ⟨count, width, fresh⟩ := framesWf f hf
    exact ⟨count, width, fresh⟩
  have hparse : parseBinary s.cr (s.res ++ chunk) = (frames.map (frameValues s.cr), tail) :=
    hdata ▸ parseBinary_stream (delimiters_ne_nil_of_legal legal).1 wf incomplete
  rw [exec_fpParse ready short, mode, selectedDecoder, hparse, byChannel_frameValues wf]
  rfl

/-! ### ASCII lines -/

/-- A terminated line as it stands in the stream, by its tokens (30_encoding.md R108). -/
def lineBytes (cr : Params) (l : List (List Byte)) : List Byte := List.intercalate [cr.delim] l ++ cr.term

/-- A line splits at its delimiters into at least one token. -/
theorem splitTokens_ne_nil (delim : Byte) (line : List Byte) : splitTokens delim line ≠ [] := by
  cases line with
  | nil => exact List.cons_ne_nil _ _
  | cons b rest =>
      unfold splitTokens
      split
      · exact List.cons_ne_nil _ _
      · split <;> exact List.cons_ne_nil _ _

/-- Bytes other than the delimiter go to the first token. -/
theorem splitTokens_append {delim : Byte} {t : List Byte} (ht : delim ∉ t) {rest u : List Byte} {us : List (List Byte)}
    (h : splitTokens delim rest = u :: us) : splitTokens delim (t ++ rest) = (t ++ u) :: us := by
  induction t with
  | nil => exact h
  | cons b t ih =>
      obtain ⟨hb, ht⟩ := not_or.mp (mt List.mem_cons.mpr ht)
      rw [List.cons_append, splitTokens, if_neg (Ne.symm hb), ih ht]
      rfl

/-- The tokens of a line are those it was put together from. -/
theorem splitTokens_intercalate {delim : Byte} {l : List (List Byte)} (hne : l ≠ []) (h : ∀ t ∈ l, delim ∉ t) :
    splitTokens delim (List.intercalate [delim] l) = l := by
  induction l with
  | nil => exact absurd rfl hne
  | cons t ts ih =>
      have ht : delim ∉ t := h t (.head _)
      cases ts with
      | nil => simpa using splitTokens_append ht (rest := []) rfl
      | cons u us =>
          have hrest := ih (List.cons_ne_nil _ _) fun v hv => h v (.tail _ hv)
          have hdelim : splitTokens delim (delim :: List.intercalate [delim] (u :: us)) = [] :: u :: us := by
            rw [splitTokens, if_pos rfl, hrest]
          simpa [List.intercalate, List.intersperse] using splitTokens_append ht hdelim

/-- At least one token, no delimiter inside a token, no terminator before the line's own. -/
structure LineWf (cr : Params) (l : List (List Byte)) : Prop where
  nonempty : l ≠ []
  tokens : ∀ t ∈ l, cr.delim ∉ t
  fresh : ∀ q < (List.intercalate [cr.delim] l).length, ¬ standsAt cr.term (List.intercalate [cr.delim] l ++ cr.term) q

/-- The frames of a line: none when it is blank (R109), else one (R112). -/
def lineFrames (cr : Params) (l : List (List Byte)) : List (List F64) :=
  if isBlank cr.delim (List.intercalate [cr.delim] l) then []
  else [(List.range cr.nch).map (fun c => (l[c]?.map num).getD .zero)]

theorem LineWf.lineFrame {cr : Params} {l : List (List Byte)} (wf : LineWf cr l) :
    lineFrame cr (List.intercalate [cr.delim] l) = (List.range cr.nch).map (fun c => (l[c]?.map num).getD .zero) := by
  simp only [Machine.lineFrame, splitTokens_intercalate wf.nonempty wf.tokens]
  refine List.map_congr_left fun c _ => ?_
  cases l[c]? <;> rfl

/-- One round of the loop on a terminated line. -/
theorem LineWf.asciiLoop {cr : Params} {l : List (List Byte)} (wf : LineWf cr l) (fuel : Nat) (rest : List Byte) :
    asciiLoop cr (fuel + 1) (lineBytes cr l ++ rest) =
      (lineFrames cr l ++ (asciiLoop cr fuel rest).1, (asciiLoop cr fuel rest).2) := by
  have hfound : findAt cr.term (lineBytes cr l ++ rest) = some (List.intercalate [cr.delim] l).length :=
    findAt_append rest wf.fresh
  have hline : (lineBytes cr l ++ rest).take (List.intercalate [cr.delim] l).length = List.intercalate [cr.delim] l := by
    rw [lineBytes, List.append_assoc, List.take_left]
  have hnext : (lineBytes cr l ++ rest).drop ((List.intercalate [cr.delim] l).length + cr.term.length) = rest := by
    rw [lineBytes, ← List.length_append, List.drop_left]
  rw [Machine.asciiLoop, hfound]
  simp only [hline, hnext, wf.lineFrame, lineFrames]
  split <;> rfl

theorem asciiLoop_of_unterminated {cr : Params} {tail : List Byte} (unterminated : ∀ q, ¬ standsAt cr.term tail q) (fuel : Nat) :
    asciiLoop cr fuel tail = ([], tail) := by
  cases fuel with
  | zero => rfl
  | succ fuel => rw [asciiLoop, findAt_eq_none.mpr fun q _ => unterminated q]

/-- The loop on terminated lines, with a pass for each. -/
theorem asciiLoop_stream {cr : Params} {lines : List (List (List Byte))} (wf : ∀ l ∈ lines, LineWf cr l) {tail : List Byte}
    (unterminated : ∀ q, ¬ standsAt cr.term tail q) {fuel : Nat} (enough : lines.length ≤ fuel) :
    asciiLoop cr fuel (lines.flatMap (lineBytes cr) ++ tail) = (lines.flatMap (lineFrames cr), tail) := by
  induction lines generalizing fuel with
  | nil => exact asciiLoop_of_unterminated unterminated fuel
  | cons l lines ih =>
      obtain ⟨fuel, rfl⟩ : ∃ n, fuel = n + 1 := ⟨fuel - 1, by simp at enough; omega⟩
      rw [List.flatMap_cons, List.append_assoc, (wf l (.head _)).asciiLoop,
        ih (fun l hl => wf l (.tail _ hl)) (Nat.le_of_succ_le_succ enough)]
      rfl

/-- Terminated lines decode to their frames and leave what follows them. -/
theorem parseAscii_stream {cr : Params} (term : cr.term ≠ []) {lines : List (List (List Byte))} (wf : ∀ l ∈ lines, LineWf cr l)
    {tail : List Byte} (unterminated : ∀ q, ¬ standsAt cr.term tail q) :
    parseAscii cr (lines.flatMap (lineBytes cr) ++ tail) = (lines.flatMap (lineFrames cr), tail) := by
  refine asciiLoop_stream wf unterminated ?_
  have hbytes := length_le_length_flatMap (g := lineBytes cr) (xs := lines) fun l _ => by simp [lineBytes, term]
  rw [List.length_append]
  omega

/-- The frames of the lines that are not blank, told by channel (R181). -/
theorem byChannel_lineFrames (cr : Params) (lines : List (List (List Byte))) :
    byChannel cr.nch (lines.flatMap (lineFrames cr)) =
      (List.range cr.nch).map (fun c =>
        (lines.filter (fun l => !isBlank cr.delim (List.intercalate [cr.delim] l))).map (fun l => (l[c]?.map num).getD .zero)) := by
  refine List.map_congr_left fun c hc => ?_
  have hc : c < cr.nch := List.mem_range.mp hc
  induction lines with
  | nil => rfl
  | cons l lines ih =>
      rw [List.flatMap_cons, List.map_append, ih, List.filter_cons, lineFrames]
      cases isBlank cr.delim (List.intercalate [cr.delim] l) <;> simp [List.getD, hc]

/-- Settles O30: the lines decoded, the frames of those that are not blank then told by channel. -/
theorem asciiStreamDecodes : Obligations.AsciiStreamDecodes := by
  unfold Obligations.AsciiStreamDecodes
  intro s chunk lines tail ready legal mode short linesWf unterminated hdata
  have wf : ∀ l ∈ lines, LineWf s.cr l := fun l hl => by
    obtain ⟨nonempty, tokens, fresh⟩ := linesWf l hl
    exact ⟨nonempty, tokens, fresh⟩
  have hparse : parseAscii s.cr (s.res ++ chunk) = (lines.flatMap (lineFrames s.cr), tail) :=
    hdata ▸ parseAscii_stream (delimiters_ne_nil_of_legal legal).2 wf unterminated
  rw [exec_fpParse ready short, mode, selectedDecoder, hparse, byChannel_lineFrames]
  rfl

end Sys2Proof.Machine
end

section
/-! PROOFS. Decimal conversion (30_encoding.md R111): `F64.ofDecimal` is one rounding of `mant * 10^exp`; its early cases only
answer sooner what that rounding answers. -/

namespace Sys2Proof

open Machine

/-- Past the overflow bound the rounding is the infinity. -/
theorem F64.ofMag_roundUnits_of_overflow (neg : Bool) {num den : Nat} (hden : 0 < den) (h : den * overflowUnits ≤ num) :
    F64.ofMag neg (F64.roundUnits num den) = .inf neg := by
  have hrange := (F64.infMag_le_roundUnits_iff hden).mpr h
  rw [F64.ofMag, dif_neg hrange.not_gt]

/-- Up to half a unit the rounding is the zero. -/
theorem F64.ofMag_roundUnits_of_underflow (neg : Bool) {num den : Nat} (hden : 0 < den) (h : 2 * num ≤ den) :
    F64.ofMag neg (F64.roundUnits num den) = .signedZero neg := by
  have hbelow : ¬ F64.roundsAbove num den 0 := by
    have hunit : F64.magUnits (0 + 1) = 1 := rfl
    unfold F64.roundsAbove
    rw [hunit, F64.magUnits_zero]
    omega
  have hzero : F64.roundUnits num den = 0 := Nat.le_zero.mp (not_lt.mp (mt (F64.lt_roundUnits_iff hden).mp hbelow))
  rw [hzero]
  rfl

theorem two_pow_le_ten_pow {a b : Nat} (h : a ≤ 3 * b) : 2 ^ a ≤ 10 ^ b :=
  calc 2 ^ a ≤ 2 ^ (3 * b) := Nat.pow_le_pow_right (by decide) h
    _ = 8 ^ b := by rw [pow_mul]; rfl
    _ ≤ 10 ^ b := Nat.pow_le_pow_left (by decide) b

/-- From 10^401 on a value is past the range. -/
theorem overflowUnits_le_of_scale {mant k : Nat} (hmant : mant ≠ 0) (hk : 401 ≤ k) :
    overflowUnits ≤ mant * 10 ^ k * 2 ^ 1074 := by
  have hbound : overflowUnits ≤ 2 ^ 54 * 2 ^ 2044 := Nat.mul_le_mul_right _ (Nat.sub_le _ _)
  calc overflowUnits ≤ 2 ^ 54 * 2 ^ 2044 := hbound
    _ = 2 ^ 1024 * 2 ^ 1074 := by rw [← pow_add, ← pow_add]
    _ ≤ mant * 10 ^ k * 2 ^ 1074 := by
        refine Nat.mul_le_mul_right _ ?_
        exact (two_pow_le_ten_pow (b := k) (by omega)).trans (Nat.le_mul_of_pos_left _ (Nat.pos_of_ne_zero hmant))

/-- Below 10^-398 a value is less than half a unit. -/
theorem scale_le_half_unit {mant k : Nat} (hk : mant.log2 + 401 ≤ k) : 2 * (mant * 2 ^ 1074) ≤ 10 ^ k := by
  have hmant : mant ≤ 2 ^ (mant.log2 + 1) := Nat.lt_log2_self.le
  calc 2 * (mant * 2 ^ 1074) ≤ 2 * (2 ^ (mant.log2 + 1) * 2 ^ 1074) :=
        Nat.mul_le_mul_left _ (Nat.mul_le_mul_right _ hmant)
    _ = 2 ^ (mant.log2 + 1 + 1074 + 1) := by rw [← pow_add, pow_succ _ (mant.log2 + 1 + 1074), Nat.mul_comm]
    _ ≤ 10 ^ k := two_pow_le_ten_pow (by omega)

/-- The conversion of R111 as one rounding. -/
theorem F64.ofDecimal_eq (neg : Bool) (mant : Nat) (exp : Int) :
    F64.ofDecimal neg mant exp =
      .ofMag neg (F64.roundUnits (mant * 10 ^ exp.toNat * 2 ^ 1074) (10 ^ (-exp).toNat)) := by
  have hden : 0 < 10 ^ (-exp).toNat := Nat.pow_pos (by decide)
  have hneg (h : exp ≤ 0) : exp.toNat = 0 := Int.toNat_of_nonpos h
  have hpos (h : 0 ≤ exp) : (-exp).toNat = 0 := Int.toNat_of_nonpos (by omega)
  unfold F64.ofDecimal
  split
  · next hzero =>
    refine (F64.ofMag_roundUnits_of_underflow neg hden ?_).symm
    rw [hzero, Nat.zero_mul, Nat.zero_mul]
    exact Nat.zero_le _
  split
  · next hmant hlarge =>
    refine (F64.ofMag_roundUnits_of_overflow neg hden ?_).symm
    rw [hpos (by omega), pow_zero, Nat.one_mul]
    exact overflowUnits_le_of_scale hmant (by omega)
  split
  · next hsmall =>
    refine (F64.ofMag_roundUnits_of_underflow neg hden ?_).symm
    rw [hneg (by omega), pow_zero, Nat.mul_one]
    exact scale_le_half_unit (by omega)
  split
  · next hnonneg => rw [hpos hnonneg, pow_zero]
  · next hlt => rw [hneg (by omega), pow_zero, Nat.mul_one]

theorem F64.isNearest_ofDecimal (neg : Bool) (mant : Nat) (exp : Int) :
    isNearest neg (mant * 10 ^ exp.toNat * 2 ^ 1074) (10 ^ (-exp).toNat) (F64.ofDecimal neg mant exp) := by
  rw [F64.ofDecimal_eq]
  generalize 2 ^ 1074 = unit
  exact isNearest_ofMag_roundUnits _ _ (Nat.pow_pos (by decide))

/-- An integer up to 2^53 as a decimal: `toF64` of it. -/
theorem F64.ofDecimal_integer {n : Nat} (hn : n ≤ 2 ^ 53) : F64.ofDecimal false n 0 = F64.ofNat n := by
  obtain ⟨m, hm⟩ := F64.exists_finite_of_natAbs_le (i := n) (p := 1074) hn (by decide)
  have hm' : F64.magUnits m.val = n * 10 ^ (0 : Int).toNat * 2 ^ 1074 := by
    rw [hm]
    generalize 1074 = p
    simp [Int.natAbs_mul, Int.natAbs_pow]
  have hsign : decide ((n : Int) * 2 ^ 1074 < 0) = false :=
    decide_eq_false (Int.mul_nonneg (Int.natCast_nonneg n) (pow_nonneg (by decide) _)).not_gt
  rw [F64.ofDecimal_eq, F64.ofNat, F64.ofInt, if_pos (show (n : Int).natAbs ≤ 2 ^ 53 from hn), F64.ofUnits_exact hm, hsign]
  exact F64.ofMag_roundUnits_exact false hm'

/-- The other sign of a decimal. -/
theorem F64.ofDecimal_neg (mant : Nat) (exp : Int) : F64.ofDecimal true mant exp = (F64.ofDecimal false mant exp).neg := by
  rw [F64.ofDecimal_eq, F64.ofDecimal_eq, F64.ofMag, F64.ofMag]
  split <;> rfl

end Sys2Proof
end

section
/-! PROOFS. Tokens (30_encoding.md R109 to R111). The parser accepts exactly the tokens `Numeral.bytes` writes: each stage of
`parseNumber` reads off one part of a numeral (`parseNumber_bytes`), and each stage that succeeds has read such a part
(`exists_numeral_of_parseNumber`). -/

namespace Sys2Proof.Machine

/-! ### White space -/

theorem isWs_iff (b : Byte) : isWs b = true ↔ b ∈ [0x20, 0x09, 0x0D, 0x0A] := by
  simp [isWs, or_assoc]

theorem trim_eq_rdropWhile (t : List Byte) : trim t = (t.dropWhile isWs).rdropWhile isWs := rfl

/-- White space around a token goes with the trim (R109). -/
theorem trim_append {a b : List Byte} (t : List Byte) (ha : ∀ x ∈ a, isWs x = true) (hb : ∀ x ∈ b, isWs x = true) :
    trim (a ++ t ++ b) = trim t := by
  rw [trim_eq_rdropWhile, trim_eq_rdropWhile, List.append_assoc, List.dropWhile_append_of_pos ha, List.dropWhile_append]
  split
  · next hall => rw [List.dropWhile_eq_nil_iff.mpr hb, List.isEmpty_iff.mp hall]
  · rw [List.rdropWhile, List.reverse_append, List.dropWhile_append_of_pos (by simpa using hb)]
    rfl

/-- A token without white space at its ends is already trimmed. -/
theorem trim_eq_self {t : List Byte} (hhead : ∀ x ∈ t.head?, isWs x = false) (hlast : ∀ x ∈ t.getLast?, isWs x = false) :
    trim t = t := by
  have hdrop : t.dropWhile isWs = t := List.dropWhile_eq_self_iff.mpr fun h => by
    rw [hhead _ (List.head?_eq_getElem? ▸ List.getElem?_eq_getElem h)]
    exact Bool.false_ne_true
  rw [trim_eq_rdropWhile, hdrop]
  exact List.rdropWhile_eq_self_iff.mpr fun h => by
    rw [hlast _ (List.getLast?_eq_some_getLast h)]
    exact Bool.false_ne_true

/-- A byte that is no white space survives the trim. -/
theorem mem_trim_of_mem {t : List Byte} {x : Byte} (hx : x ∈ t) (hws : isWs x = false) : x ∈ trim t := by
  have hkeep {l : List Byte} (h : x ∈ l) : x ∈ l.dropWhile isWs := by
    rw [← List.takeWhile_append_dropWhile (p := isWs) (l := l)] at h
    exact (List.mem_append.mp h).resolve_left fun h' => by simp [List.mem_takeWhile_imp h'] at hws
  exact List.mem_reverse.mpr (hkeep (List.mem_reverse.mpr (hkeep hx)))

/-! ### Digits -/

/-- The ASCII byte of a digit. -/
def digitByte (d : Fin 10) : Byte := BitVec.ofNat 8 (0x30 + d.val)

theorem digitBytes_eq_map (ds : List (Fin 10)) : digitBytes ds = ds.map digitByte := rfl

theorem isDigit_iff (b : Byte) : isDigit b = true ↔ 0x30 ≤ b.toNat ∧ b.toNat ≤ 0x39 := by
  simp [isDigit]

theorem toNat_digitByte (d : Fin 10) : (digitByte d).toNat = 0x30 + d.val := by
  have := d.isLt
  rw [digitByte, BitVec.toNat_ofNat, Nat.mod_eq_of_lt (by omega)]

theorem isDigit_digitByte (d : Fin 10) : isDigit (digitByte d) = true := by
  have := d.isLt
  rw [isDigit_iff, toNat_digitByte]
  omega

theorem isDigit_of_mem_digitBytes {ds : List (Fin 10)} : ∀ b ∈ digitBytes ds, isDigit b = true := by
  rw [digitBytes_eq_map]
  exact List.forall_mem_map.mpr fun d _ => isDigit_digitByte d

theorem exists_digitByte_of_isDigit {b : Byte} (h : isDigit b = true) : ∃ d, digitByte d = b := by
  rw [isDigit_iff] at h
  refine ⟨⟨b.toNat - 0x30, by omega⟩, BitVec.eq_of_toNat_eq ?_⟩
  rw [toNat_digitByte]
  exact Nat.add_sub_of_le h.1

theorem exists_digitBytes {l : List Byte} (h : ∀ b ∈ l, isDigit b = true) : ∃ ds, digitBytes ds = l :=
  Set.mem_range.mp (Set.range_list_map digitByte ▸ fun b hb => exists_digitByte_of_isDigit (h b hb))

/-- A digit string's number, as the parser and as R110 read it. -/
theorem digitsValue_digitBytes (ds : List (Fin 10)) : digitsValue (digitBytes ds) = decimalValue ds := by
  rw [digitsValue, digitBytes_eq_map, List.foldl_map, decimalValue]
  congr 1
  funext n d
  rw [toNat_digitByte, Nat.add_sub_cancel_left, Nat.mul_comm]

theorem digitBytes_append (ds es : List (Fin 10)) : digitBytes (ds ++ es) = digitBytes ds ++ digitBytes es := List.map_append

theorem isEmpty_digitBytes (ds : List (Fin 10)) : (digitBytes ds).isEmpty = ds.isEmpty := by cases ds <;> rfl

theorem length_digitBytes (ds : List (Fin 10)) : (digitBytes ds).length = ds.length := List.length_map _

/-- The leading digits of a string end where a byte that is none stands. -/
theorem span_digitBytes (ds : List (Fin 10)) {rest : List Byte} (h : ∀ b ∈ rest.head?, isDigit b = false) :
    (digitBytes ds ++ rest).takeWhile isDigit = digitBytes ds ∧ (digitBytes ds ++ rest).dropWhile isDigit = rest := by
  rw [List.takeWhile_append_of_pos isDigit_of_mem_digitBytes, List.dropWhile_append_of_pos isDigit_of_mem_digitBytes]
  cases rest with
  | nil => simp
  | cons b rest => simp [h b rfl]

/-- The leading digits of any string are a digit string. -/
theorem exists_takeWhile_isDigit (l : List Byte) : ∃ ds, digitBytes ds = l.takeWhile isDigit :=
  exists_digitBytes fun _ => List.mem_takeWhile_imp

/-- What holds of the first byte of either part holds of the first byte of the whole. -/
theorem forall_head?_append {p : Byte → Prop} {l r : List Byte} (hl : ∀ b ∈ l.head?, p b) (hr : ∀ b ∈ r.head?, p b) :
    ∀ b ∈ (l ++ r).head?, p b := by
  cases l with
  | nil => exact hr
  | cons b l => exact hl

/-! ### The parts of a numeral -/

/-- The bytes of the point, where it stands. -/
def pointBytes (point : Bool) : List Byte := if point then [0x2E] else []

/-- The bytes of an exponent part. -/
def expoBytes : Option (Bool × Option Bool × List (Fin 10)) → List Byte
  | none => []
  | some (upper, sign, ds) => (if upper then 0x45 else 0x65) :: (signBytes sign ++ digitBytes ds)

/-- The number an exponent part denotes. -/
def expoValue : Option (Bool × Option Bool × List (Fin 10)) → Int
  | none => 0
  | some (_, sign, ds) => if sign = some true then -(decimalValue ds : Int) else decimalValue ds

theorem Numeral.bytes_eq (x : Numeral) :
    x.bytes = signBytes x.sign ++ (digitBytes x.whole ++ (pointBytes x.point ++ (digitBytes x.frac ++ expoBytes x.expo))) := by
  obtain ⟨sign, whole, point, frac, expo⟩ := x
  simp only [← List.append_assoc]
  cases expo <;> rfl

theorem Numeral.scale_eq (x : Numeral) : x.scale = expoValue x.expo - x.frac.length := by
  obtain ⟨sign, whole, point, frac, expo⟩ := x
  cases expo <;> rfl

theorem Numeral.wf_iff (x : Numeral) : x.wf = true ↔
    (x.whole ≠ [] ∨ x.frac ≠ []) ∧ (x.point = true ∨ x.frac = []) ∧ ∀ e ∈ x.expo, e.2.2 ≠ [] := by
  simp [Numeral.wf, and_assoc, Option.all_eq_true]

/-! ### Signs -/

/-- A byte that is no sign. -/
def NotSign (b : Byte) : Prop := b ≠ 0x2B ∧ b ≠ 0x2D

theorem notSign_of_isDigit {b : Byte} (h : isDigit b = true) : NotSign b := by
  rw [isDigit_iff] at h
  constructor <;> rintro rfl <;> revert h <;> decide

theorem notSign_head?_digitBytes (ds : List (Fin 10)) : ∀ b ∈ (digitBytes ds).head?, NotSign b :=
  fun _ hb => notSign_of_isDigit (isDigit_of_mem_digitBytes _ (List.mem_of_head? hb))

theorem takeSign_cons (b : Byte) (l : List Byte) :
    takeSign (b :: l) = if b == 0x2B then (false, l) else if b == 0x2D then (true, l) else (false, b :: l) := rfl

theorem takeSign_append (sign : Option Bool) {rest : List Byte} (h : ∀ b ∈ rest.head?, NotSign b) :
    takeSign (signBytes sign ++ rest) = (decide (sign = some true), rest) := by
  match sign with
  | some false => rfl
  | some true => rfl
  | none =>
      cases rest with
      | nil => rfl
      | cons b rest =>
          obtain ⟨hplus, hminus⟩ := h b rfl
          rw [signBytes, List.nil_append, takeSign_cons, if_neg (mt eq_of_beq hplus), if_neg (mt eq_of_beq hminus)]
          rfl

theorem exists_signBytes_append_takeSign (l : List Byte) : ∃ sign, signBytes sign ++ (takeSign l).2 = l := by
  cases l with
  | nil => exact ⟨none, rfl⟩
  | cons b l =>
      rw [takeSign_cons]
      split
      · next h => exact ⟨some false, by rw [eq_of_beq h]; rfl⟩
      · split
        · next h => exact ⟨some true, by rw [eq_of_beq h]; rfl⟩
        · exact ⟨none, rfl⟩

/-! ### The exponent -/

theorem head?_expoBytes (expo : Option (Bool × Option Bool × List (Fin 10))) :
    ∀ b ∈ (expoBytes expo).head?, b = 0x45 ∨ b = 0x65 := by
  match expo with
  | none => exact nofun
  | some (true, _, _) => rintro _ ⟨⟩; exact .inl rfl
  | some (false, _, _) => rintro _ ⟨⟩; exact .inr rfl

theorem exponentOf_expoBytes {expo : Option (Bool × Option Bool × List (Fin 10))} (h : ∀ e ∈ expo, e.2.2 ≠ []) :
    exponentOf (expoBytes expo) = some (expoValue expo) := by
  match expo with
  | none => rfl
  | some (upper, sign, ds) =>
      have hne : ds.isEmpty = false := List.isEmpty_eq_false_iff.mpr (h _ rfl)
      have hsign := takeSign_append sign (notSign_head?_digitBytes ds)
      have hdigits : (digitBytes ds).all isDigit = true := List.all_eq_true.mpr isDigit_of_mem_digitBytes
      cases upper <;>
        simp [expoBytes, expoValue, exponentOf, hsign, isEmpty_digitBytes, hne, hdigits, digitsValue_digitBytes]

theorem exists_expoBytes_of_exponentOf {l : List Byte} {e : Int} (h : exponentOf l = some e) :
    ∃ expo, expoBytes expo = l ∧ ∀ e ∈ expo, e.2.2 ≠ [] := by
  cases l with
  | nil => exact ⟨none, rfl, nofun⟩
  | cons b l =>
      obtain ⟨sign, hsign⟩ := exists_signBytes_append_takeSign l
      simp only [exponentOf] at h
      split at h
      · next hletter =>
        split at h
        · next hds =>
          rw [Bool.and_eq_true, Bool.not_eq_true', List.all_eq_true] at hds
          obtain ⟨hne, hall⟩ := hds
          obtain ⟨ds, hds⟩ := exists_digitBytes hall
          refine ⟨some (b == 0x45, sign, ds), ?_, ?_⟩
          · rw [expoBytes, hds, hsign]
            congr 1
            rw [Bool.or_eq_true, beq_iff_eq, beq_iff_eq] at hletter
            rcases hletter with rfl | rfl <;> rfl
          · rintro _ ⟨⟩
            rwa [← hds, isEmpty_digitBytes, List.isEmpty_eq_false_iff] at hne
        · cases h
      · cases h

/-! ### The fraction -/

theorem takeFraction_cons (b : Byte) (l : List Byte) :
    takeFraction (b :: l) = if b == 0x2E then (l.takeWhile isDigit, l.dropWhile isDigit) else ([], b :: l) := rfl

theorem takeFraction_append {point : Bool} {frac : List (Fin 10)} (hfrac : point = true ∨ frac = []) {rest : List Byte}
    (hrest : ∀ b ∈ rest.head?, isDigit b = false ∧ b ≠ 0x2E) :
    takeFraction (pointBytes point ++ (digitBytes frac ++ rest)) = (digitBytes frac, rest) := by
  cases point with
  | true =>
      obtain ⟨htake, hdrop⟩ := span_digitBytes frac fun b hb => (hrest b hb).1
      simp [pointBytes, takeFraction, htake, hdrop]
  | false =>
      obtain rfl : frac = [] := by simpa using hfrac
      cases rest with
      | nil => rfl
      | cons b rest =>
          change takeFraction (b :: rest) = ([], b :: rest)
          rw [takeFraction_cons, if_neg (mt eq_of_beq (hrest b rfl).2)]

theorem exists_fraction_of_takeFraction (l : List Byte) :
    ∃ point frac, (point = true ∨ frac = []) ∧ digitBytes frac = (takeFraction l).1 ∧
      pointBytes point ++ (digitBytes frac ++ (takeFraction l).2) = l := by
  cases l with
  | nil => exact ⟨false, [], .inr rfl, rfl, rfl⟩
  | cons b l =>
      rw [takeFraction_cons]
      split
      · next h =>
        obtain ⟨frac, hfrac⟩ := exists_takeWhile_isDigit l
        refine ⟨true, frac, .inl rfl, hfrac, ?_⟩
        rw [hfrac, List.takeWhile_append_dropWhile, eq_of_beq h]
        rfl
      · exact ⟨false, [], .inr rfl, rfl, rfl⟩

/-! ### The whole token -/

theorem head?_expoBytes_no_digit (expo : Option (Bool × Option Bool × List (Fin 10))) :
    ∀ b ∈ (expoBytes expo).head?, isDigit b = false ∧ b ≠ 0x2E ∧ NotSign b := by
  intro b hb
  rcases head?_expoBytes expo b hb with rfl | rfl <;> exact ⟨by decide, by decide, by decide, by decide⟩

theorem head?_pointBytes (point : Bool) : ∀ b ∈ (pointBytes point).head?, isDigit b = false ∧ NotSign b := by
  cases point with
  | false => exact nofun
  | true => rintro _ ⟨⟩; exact ⟨by decide, by decide, by decide⟩

/-- The parser reads a numeral's sign, digits and scale. -/
theorem parseNumber_bytes {x : Numeral} (wf : x.wf = true) :
    parseNumber x.bytes = some ⟨decide (x.sign = some true), decimalValue (x.whole ++ x.frac), x.scale⟩ := by
  obtain ⟨hdigits, hfrac, hexpo⟩ := (Numeral.wf_iff x).mp wf
  have hend := head?_expoBytes_no_digit x.expo
  have hsign := takeSign_append x.sign
    (rest := digitBytes x.whole ++ (pointBytes x.point ++ (digitBytes x.frac ++ expoBytes x.expo)))
    (forall_head?_append (notSign_head?_digitBytes _) (forall_head?_append (fun b hb => (head?_pointBytes _ b hb).2)
      (forall_head?_append (notSign_head?_digitBytes _) fun b hb => (hend b hb).2.2)))
  have hafter : ∀ b ∈ (pointBytes x.point ++ (digitBytes x.frac ++ expoBytes x.expo)).head?, isDigit b = false := by
    rcases hfrac with hpoint | hnone
    · rw [hpoint]
      rintro _ ⟨⟩
      decide
    · rw [hnone]
      exact forall_head?_append (fun b hb => (head?_pointBytes _ b hb).1) fun b hb => (hend b hb).1
  obtain ⟨hwhole, hrest⟩ := span_digitBytes x.whole hafter
  have hfraction := takeFraction_append hfrac fun b hb => ⟨(hend b hb).1, (hend b hb).2.1⟩
  have hsome : (x.whole.isEmpty && x.frac.isEmpty) = false := by
    rcases hdigits with h | h <;> simp [h]
  rw [Numeral.bytes_eq, parseNumber, hsign]
  simp only [hwhole, hrest, hfraction, isEmpty_digitBytes, hsome, exponentOf_expoBytes hexpo, Option.map_some,
    ← digitBytes_append, digitsValue_digitBytes, length_digitBytes, Numeral.scale_eq]
  rfl

/-- A token the parser accepts is a numeral. -/
theorem exists_numeral_of_parseNumber {t : List Byte} {d : Decimal} (h : parseNumber t = some d) :
    ∃ x : Numeral, x.wf = true ∧ x.bytes = t := by
  obtain ⟨sign, hsign⟩ := exists_signBytes_append_takeSign t
  obtain ⟨whole, hwhole⟩ := exists_takeWhile_isDigit (takeSign t).2
  obtain ⟨point, frac, hpoint, hfrac, hbody⟩ := exists_fraction_of_takeFraction ((takeSign t).2.dropWhile isDigit)
  simp only [parseNumber] at h
  split at h
  · cases h
  · next hsome =>
    obtain ⟨e, he, -⟩ := Option.map_eq_some_iff.mp h
    obtain ⟨expo, hexpo, hne⟩ := exists_expoBytes_of_exponentOf he
    refine ⟨⟨sign, whole, point, frac, expo⟩, (Numeral.wf_iff _).mpr ⟨?_, hpoint, hne⟩, ?_⟩
    · rw [← hwhole, ← hfrac, isEmpty_digitBytes, isEmpty_digitBytes, Bool.and_eq_true, List.isEmpty_iff, List.isEmpty_iff,
        not_and_or] at hsome
      exact hsome
    · rw [Numeral.bytes_eq]
      dsimp only
      rw [hexpo, hbody, hwhole, List.takeWhile_append_dropWhile, hsign]

end Sys2Proof.Machine
end

section
/-! PROOFS. The value of a token (30_encoding.md R110, R111, R114): a numeral by its rounding, anything else +0.0. -/

namespace Sys2Proof.Machine

/-! ### Numerals -/

/-- The bytes that have a role in a numeral (R110). -/
def HasRole (b : Byte) : Prop := isDigit b = true ∨ b ∈ [0x2B, 0x2D, 0x2E, 0x45, 0x65]

theorem hasRole_signBytes (sign : Option Bool) : ∀ b ∈ signBytes sign, HasRole b := by
  match sign with
  | none => exact nofun
  | some false => simp [signBytes, HasRole]
  | some true => simp [signBytes, HasRole]

theorem hasRole_digitBytes (ds : List (Fin 10)) : ∀ b ∈ digitBytes ds, HasRole b :=
  fun b hb => .inl (isDigit_of_mem_digitBytes b hb)

theorem hasRole_pointBytes (point : Bool) : ∀ b ∈ pointBytes point, HasRole b := by
  cases point <;> simp [pointBytes, HasRole]

theorem hasRole_expoBytes (expo : Option (Bool × Option Bool × List (Fin 10))) : ∀ b ∈ expoBytes expo, HasRole b := by
  match expo with
  | none => exact nofun
  | some (upper, sign, ds) =>
      refine List.forall_mem_cons.mpr ⟨by cases upper <;> simp [HasRole], ?_⟩
      exact List.forall_mem_append.mpr ⟨hasRole_signBytes sign, hasRole_digitBytes ds⟩

/-- A numeral holds no other byte. -/
theorem Numeral.hasRole_of_mem_bytes (x : Numeral) : ∀ b ∈ x.bytes, HasRole b := by
  rw [Numeral.bytes_eq]
  simp only [List.forall_mem_append]
  exact ⟨hasRole_signBytes _, hasRole_digitBytes _, hasRole_pointBytes _, hasRole_digitBytes _, hasRole_expoBytes _⟩

theorem isWs_of_hasRole {b : Byte} (h : HasRole b) : isWs b = false := by
  rw [← Bool.not_eq_true, isWs_iff]
  intro hws
  simp only [List.mem_cons, List.not_mem_nil, or_false] at hws
  rcases hws with rfl | rfl | rfl | rfl <;> revert h <;> simp [HasRole, isDigit]

theorem Numeral.trim_bytes (x : Numeral) : trim x.bytes = x.bytes :=
  trim_eq_self (fun b hb => isWs_of_hasRole (x.hasRole_of_mem_bytes b (List.mem_of_head? hb)))
    fun b hb => isWs_of_hasRole (x.hasRole_of_mem_bytes b (List.mem_of_getLast? hb))

/-- The value of a numeral is one rounding of its digits scaled. -/
theorem num_bytes {x : Numeral} (wf : x.wf = true) :
    num x.bytes = F64.ofDecimal (decide (x.sign = some true)) (decimalValue (x.whole ++ x.frac)) x.scale := by
  rw [num, x.trim_bytes, parseNumber_bytes wf]

theorem Numeral.denotes_num {x : Numeral} (wf : x.wf = true) : x.denotes (num x.bytes) := by
  rw [num_bytes wf]
  exact F64.isNearest_ofDecimal _ _ _

/-- A token that trims to no numeral is +0.0. -/
theorem num_eq_zero {t : List Byte} (h : ∀ x : Numeral, x.wf = true → x.bytes ≠ trim t) : num t = .zero := by
  unfold num
  cases hparse : parseNumber (trim t) with
  | none => rfl
  | some d =>
      obtain ⟨x, wf, hx⟩ := exists_numeral_of_parseNumber hparse
      exact absurd hx (h x wf)

theorem num_eq_zero_of_mem {t : List Byte} {b : Byte} (hb : b ∈ t) (hws : isWs b = false) (hrole : ¬ HasRole b) :
    num t = .zero :=
  num_eq_zero fun x _ hx => hrole (x.hasRole_of_mem_bytes b (hx ▸ mem_trim_of_mem hb hws))

/-! ### Integers -/

/-- The digits of a number. -/
def digitsOf (n : Nat) : List (Fin 10) := (Nat.toDigits 10 n).map (fun c => Fin.ofNat 10 (c.toNat - 0x30))

/-- A digit of a number as a character. -/
theorem toNat_of_mem_toDigits {n : Nat} {c : Char} (hc : c ∈ Nat.toDigits 10 n) : 0x30 ≤ c.toNat ∧ c.toNat ≤ 0x39 := by
  have hdigit := Nat.isDigit_of_mem_toDigits (by decide) (by decide) hc
  simp only [Char.isDigit, Bool.and_eq_true, decide_eq_true_eq] at hdigit
  exact hdigit

theorem val_digit {k : Nat} (h : 0x30 ≤ k ∧ k ≤ 0x39) : (Fin.ofNat 10 (k - 0x30)).val = k - 0x30 :=
  Nat.mod_eq_of_lt (by omega)

theorem digitBytes_digitsOf (n : Nat) : digitBytes (digitsOf n) = (Nat.toDigits 10 n).map (fun d => BitVec.ofNat 8 d.toNat) := by
  rw [digitsOf, digitBytes, List.map_map]
  refine List.map_congr_left fun c hc => ?_
  have hrange := toNat_of_mem_toDigits hc
  rw [Function.comp_apply, val_digit hrange, Nat.add_sub_of_le hrange.1]

theorem decimalValue_digitsOf (n : Nat) : decimalValue (digitsOf n) = n := by
  rw [decimalValue, digitsOf, List.foldl_map]
  conv_rhs => rw [← Nat.ofDigitChars_ten_toDigits (n := n), Nat.ofDigitChars_eq_foldl]
  refine List.foldl_ext _ _ _ fun k c hc => ?_
  rw [val_digit (toNat_of_mem_toDigits hc)]
  rfl

/-- The digits of an integer, after an optional sign, as a numeral. -/
def integerNumeral (sign : Option Bool) (n : Nat) : Numeral := ⟨sign, digitsOf n, false, [], none⟩

theorem integerNumeral_wf (sign : Option Bool) (n : Nat) : (integerNumeral sign n).wf = true := by
  have hne : digitsOf n ≠ [] := by simp [digitsOf, Nat.toDigits_ne_nil]
  exact (Numeral.wf_iff _).mpr ⟨.inl hne, .inr rfl, nofun⟩

theorem integerNumeral_bytes (sign : Option Bool) (n : Nat) :
    (integerNumeral sign n).bytes = signBytes sign ++ (Nat.toDigits 10 n).map (fun d => BitVec.ofNat 8 d.toNat) := by
  rw [Numeral.bytes_eq, ← digitBytes_digitsOf]
  simp [integerNumeral, pointBytes, expoBytes, digitBytes]

theorem num_integerNumeral (sign : Option Bool) (n : Nat) :
    num (signBytes sign ++ (Nat.toDigits 10 n).map (fun d => BitVec.ofNat 8 d.toNat)) =
      F64.ofDecimal (decide (sign = some true)) n 0 := by
  rw [← integerNumeral_bytes, num_bytes (integerNumeral_wf sign n)]
  simp only [integerNumeral, List.append_nil, decimalValue_digitsOf]
  rfl

/-- Settles O32: numerals by their rounding, other tokens by the parser's converse. -/
theorem tokenValues : Obligations.TokenValues := by
  unfold Obligations.TokenValues
  refine ⟨isWs_iff, fun a t b ha hb => ?_, fun t x hx hplain hdigit => ?_, fun n hn => ⟨?_, ?_⟩,
    fun x wf => Numeral.denotes_num wf, fun t hhead hlast hnone => num_eq_zero ?_⟩
  · rw [num, num, trim_append t ha hb]
  · obtain ⟨hws, hsymbol⟩ : x ∉ [0x20, 0x09, 0x0D, 0x0A] ∧ x ∉ [0x2B, 0x2D, 0x2E, 0x45, 0x65] :=
      not_or.mp (mt List.mem_append.mpr hplain)
    refine num_eq_zero_of_mem hx (by rwa [← Bool.not_eq_true, isWs_iff]) (not_or.mpr ⟨?_, hsymbol⟩)
    rwa [isDigit_iff]
  · rw [← F64.ofDecimal_integer hn]
    exact num_integerNumeral none n
  · rw [← F64.ofDecimal_integer hn, ← F64.ofDecimal_neg]
    exact num_integerNumeral (some true) n
  · rwa [trim_eq_self (fun x hx => by rw [← Bool.not_eq_true, isWs_iff]; exact hhead x hx)
      fun x hx => by rw [← Bool.not_eq_true, isWs_iff]; exact hlast x hx]

end Sys2Proof.Machine
end

section
/-! PROOFS. What a RingBuffer holds (10_state.md R26): the samples before `HEAD`, read backwards from it, and what an add appends to
them (40_ringbuffer.md R141 to R144). -/

namespace Sys2Proof.Machine

section Contents

variable {cap : Nat} {r : Ring}

/-- A read sees its index modulo the capacity only. -/
theorem Ring.read_congr {i j : Int} (h : i % cap = j % cap) : r.read cap i = r.read cap j := by
  simp only [Ring.read, h]

theorem Ring.read_of_getElem? {i : Int} {v : F64} (h : r.buf[(i % cap).toNat]? = some (some v)) : r.read cap i = v := by
  simp [Ring.read, List.getD, h]

/-- The index `d` samples before `HEAD`. -/
theorem toNat_head_sub_emod {head d : Nat} (h : d ≤ cap) :
    (((head : Int) - d) % cap).toNat = (head + cap - d) % cap := by
  rw [← Int.add_emod_right, show (head : Int) - d + cap = ((head + cap - d : Nat) : Int) by omega]
  exact Int.toNat_natCast _

/-- The `COUNT` indices before `HEAD` hold values (R26). -/
theorem Ring.exists_value_of_wf (wf : r.wf cap = true) {d : Nat} (hd : 1 ≤ d) (hdc : d ≤ r.count) :
    ∃ v, r.buf[(r.head + cap - d) % cap]? = some (some v) := by
  obtain ⟨hl, hh, hc, -, hb⟩ := Ring.wf_iff.mp wf
  have hi : (r.head + cap - d) % cap < cap := Nat.mod_lt _ (by omega)
  have behind : ((r.head + cap - d) % cap + cap + r.count - r.head) % cap < r.count := by
    have index := mod_below_three (x := r.head + cap - d) (c := cap) (by omega)
    have distance := mod_below_three (x := (r.head + cap - d) % cap + cap + r.count - r.head) (c := cap) (by omega)
    omega
  obtain ⟨v, hv⟩ := Option.isSome_iff_exists.mp ((hb _ hi).mpr behind)
  exact ⟨v, by rw [List.getElem?_eq_getElem (hl ▸ hi), ← hv, List.getD_eq_getElem _ _ (hl ▸ hi)]⟩

/-- The newest samples as a map over natural indices (the definition lists the indices as integers). -/
theorem Ring.latest_eq_map (cap : Nat) (r : Ring) (k : Nat) :
    r.latest cap k = (List.range k).map (fun i : Nat => r.read cap ((r.head : Int) - k + i)) := by
  simp only [Ring.latest, bind_pure_comp, List.map_eq_map, List.map_map, Function.comp_def]

@[simp] theorem Ring.length_latest (cap : Nat) (r : Ring) (k : Nat) : (r.latest cap k).length = k := by
  simp [Ring.latest_eq_map]

@[simp] theorem Ring.latest_zero (cap : Nat) (r : Ring) : r.latest cap 0 = [] := rfl

/-- Element `i` of the `k` newest samples is the value in `BUF` at `k - i` before `HEAD`. -/
theorem Ring.getElem?_latest (wf : r.wf cap = true) {k i : Nat} (hk : k ≤ r.count) (hi : i < k) :
    ∃ v, (r.latest cap k)[i]? = some v ∧ r.buf[(r.head + cap - (k - i)) % cap]? = some (some v) := by
  obtain ⟨-, -, hc, -, -⟩ := Ring.wf_iff.mp wf
  obtain ⟨v, hv⟩ := Ring.exists_value_of_wf wf (d := k - i) (by omega) (by omega)
  refine ⟨v, ?_, hv⟩
  have read : r.read cap ((r.head : Int) - k + i) = v := by
    rw [show (r.head : Int) - k + i = r.head - ((k - i : Nat) : Int) by omega]
    exact Ring.read_of_getElem? (by rwa [toNat_head_sub_emod (by omega)])
  simp [Ring.latest_eq_map, hi, read]

/-- The samples from a cursor on that are still held are the newest ones, as many as that is (R144). -/
theorem Ring.since_eq_latest (cap : Nat) (r : Ring) (q : BitVec 64) :
    r.since cap q =
      r.latest cap (r.total.toNat - max (min q.toNat r.total.toNat) (r.total.toNat - r.count)) := by
  simp only [Ring.latest_eq_map, Ring.since, bind_pure_comp, List.map_eq_map, List.map_map]
  refine List.map_congr_left fun i hi => congrArg (r.read cap) ?_
  have := List.mem_range.mp hi
  omega

/-- An add writes the element at `HEAD` and no other. -/
theorem Ring.read_add (hl : r.buf.length = cap) (hh : r.head < cap) (v : F64) (i : Int) :
    (r.add cap v).read cap i = if (i % cap).toNat = r.head then v else r.read cap i := by
  split
  · next same => exact Ring.read_of_getElem? (by simp [same, hl, hh])
  · next other => simp [Ring.read, List.getD, List.getElem?_set_ne (Ne.symm other)]

/-- After an add, the newest samples are those from before it and the value added, until the capacity is reached. -/
theorem Ring.latest_add (hl : r.buf.length = cap) (hh : r.head < cap) (v : F64) {k : Nat} (hk : k < cap) :
    (r.add cap v).latest cap (k + 1) = r.latest cap k ++ [v] := by
  have shift (i : Nat) : (r.add cap v).read cap (((r.add cap v).head : Int) - (k + 1 : Nat) + i) =
      (r.add cap v).read cap ((r.head : Int) - k + i) := by
    refine Ring.read_congr ?_
    rw [Ring.add_head, Int.natCast_mod, sub_add, Int.emod_sub_emod]
    congr 1
    omega
  simp only [Ring.latest_eq_map, List.range_succ, List.map_append, List.map_cons, List.map_nil, shift]
  congr 1
  · refine List.map_congr_left fun i hi => ?_
    have hik := List.mem_range.mp hi
    rw [Ring.read_add hl hh, if_neg]
    rw [show (r.head : Int) - k + i = r.head - ((k - i : Nat) : Int) by omega, toNat_head_sub_emod (by omega)]
    have := mod_below_three (x := r.head + cap - (k - i)) (c := cap) (by omega)
    omega
  · rw [Ring.read_add hl hh, if_pos]
    rw [sub_add_cancel, Int.emod_eq_of_lt (by omega) (by omega), Int.toNat_natCast]

theorem Ring.foldl_add_count (vs : List F64) (h : r.count ≤ cap) :
    (vs.foldl (Ring.add cap) r).count = min (r.count + vs.length) cap := by
  induction vs generalizing r with
  | nil => simpa using h
  | cons v vs ih =>
      rw [List.foldl_cons, ih (by simp), Ring.add_count, List.length_cons]
      omega

/-- After values are appended, the newest samples are the last of them, while neither they nor the capacity run out (R148). -/
theorem Ring.latest_foldl_add (wf : r.wf cap = true) {vs : List F64} (room : r.total.toNat + vs.length < 2 ^ 64) {k : Nat}
    (hk : k ≤ vs.length) (hkc : k ≤ cap) : (vs.foldl (Ring.add cap) r).latest cap k = vs.drop (vs.length - k) := by
  induction vs using List.reverseRecOn generalizing k with
  | nil =>
      obtain rfl : k = 0 := by simpa using hk
      rfl
  | append_singleton us v ih =>
      rw [List.length_append, List.length_singleton] at room hk ⊢
      obtain ⟨hl, hh, -⟩ := Ring.wf_iff.mp (Ring.wf_foldl_add us wf (by omega))
      cases k with
      | zero => simp
      | succ k =>
          rw [List.foldl_append, List.foldl_cons, List.foldl_nil, Ring.latest_add hl hh v (by omega),
            ih (by omega) (by omega) (by omega), Nat.add_sub_add_right, List.drop_append_of_le_length (by omega)]

end Contents

end Sys2Proof.Machine
end

section
/-! PROOFS. The RingBuffer operations (40_ringbuffer.md R140 to R151), each by one equation for a ready state and a channel that is
there. -/

namespace Sys2Proof.Machine

/-- `RB_ADD` is the range of one value. -/
theorem exec_rbAdd_eq_exec_rbAddRange (c : BitVec 8) (v : F64) (s : State) :
    exec (.rbAdd c v) s = exec (.rbAddRange c [v]) s := rfl

section Operations

variable {s : State} {c : BitVec 8} {ch : Channel}

theorem exec_rbAddRange (ready : s.ready = true) (there : s.chan? c = some ch) {vs : List F64}
    (room : ch.ring.total.toNat + vs.length < 2 ^ 64) :
    exec (.rbAddRange c vs) s = .next ((s.setRing c ch (vs.foldl (Ring.add (s.cap c)) ch.ring)).answer .none) := by
  simp only [exec, execRbAddRange, onChannel_of_chan ready there, Ring.append_eq_some.mpr ⟨room, rfl⟩]

theorem exec_rbAddRange_of_overflow (ready : s.ready = true) (there : s.chan? c = some ch) {vs : List F64}
    (full : 2 ^ 64 ≤ ch.ring.total.toNat + vs.length) : exec (.rbAddRange c vs) s = .refused .totalOverflow := by
  simp only [exec, execRbAddRange, onChannel_of_chan ready there, Ring.append_eq_none.mpr full]

/-- A commit step for the next entry of a record, without room in `TOTAL`. -/
theorem commitStep_of_overflow (ready : s.ready = true) (there : s.chan? c = some ch) {a : Nat} {values : List F64}
    {before after : List Flight} {f : Flight} {pre post : List (BitVec 8 × List F64)}
    (pending : PendingAt s.flights before f after a pre c values post)
    (full : 2 ^ 64 ≤ ch.ring.total.toNat + values.length) : commitStep s a c = .refused .totalOverflow := by
  simp only [commitStep, State.inFlight_of_ready ready, pending.findPending, onChannel_of_chan ready there,
    Ring.append_eq_none.mpr full]

/-- The schedule names the commit step. -/
theorem step_of_commit {a : Nat} {rest : List Event} (next : s.inbox = .commit a c :: rest) :
    step s = commitStep { s with inbox := rest } a c := by
  simp only [step, next, performEvent]

/-- An operation waits for the next commit step of its agent's block (log 12). -/
theorem PendingAt.step_of_issue {a : Nat} {values : List F64} {before after : List Flight} {f : Flight}
    {post : List (BitVec 8 × List F64)} (pending : PendingAt s.flights before f after a [] c values post)
    (ready : s.ready = true) {cmd : Command} {rest : List Event} (next : s.inbox = .issue a cmd :: rest) :
    step s = commitStep s a c := by
  simp only [step, next, performEvent, State.inFlight_of_ready ready, pending.nextPending]

/-- An empty schedule brings the next commit step of the first block (log 13). -/
theorem PendingAt.step_of_drain {a : Nat} {values : List F64} {after : List Flight} {f : Flight}
    {post : List (BitVec 8 × List F64)} (pending : PendingAt s.flights [] f after a [] c values post)
    (ready : s.ready = true) (noEvent : s.inbox = []) : step s = commitStep s a c := by
  simp only [step, noEvent, drainStep, State.inFlight_of_ready ready, pending.record, List.nil_append, pending.entry,
    pending.agent]

theorem exec_rbCopyLatest (ready : s.ready = true) (there : s.chan? c = some ch) {n : BitVec 32} {dest : List F64}
    (fits : min n.toNat ch.ring.count ≤ dest.length) :
    exec (.rbCopyLatest c n dest) s = .next (s.answer (.copied (min n.toNat ch.ring.count)
      (ch.ring.latest (s.cap c) (min n.toNat ch.ring.count) ++ dest.drop (min n.toNat ch.ring.count)))) := by
  simp only [exec, execRbCopyLatest, onChannel_of_chan ready there, if_neg fits.not_gt]

theorem exec_rbCopyLatest_of_short (ready : s.ready = true) (there : s.chan? c = some ch) {n : BitVec 32} {dest : List F64}
    (short : dest.length < min n.toNat ch.ring.count) :
    exec (.rbCopyLatest c n dest) s = .refused .destinationTooShort := by
  simp only [exec, execRbCopyLatest, onChannel_of_chan ready there, if_pos short]

theorem exec_rbNewDataSince (ready : s.ready = true) (there : s.chan? c = some ch) (q : BitVec 64) :
    exec (.rbNewDataSince c q) s = .next (s.answer (.fresh (ch.ring.since (s.cap c) q) ch.ring.total)) :=
  onChannel_of_chan ready there _

theorem exec_rbClear (ready : s.ready = true) (there : s.chan? c = some ch) :
    exec (.rbClear c) s = .next ((s.setRing c ch ch.ring.clear).answer .none) := onChannel_of_chan ready there _

theorem exec_rbCapacity (ready : s.ready = true) (there : s.chan? c = some ch) :
    exec (.rbCapacity c) s = .next (s.answer (.capacity (s.cap c))) := onChannel_of_chan ready there _

theorem exec_rbCount (ready : s.ready = true) (there : s.chan? c = some ch) :
    exec (.rbCount c) s = .next (s.answer (.count ch.ring.count)) := onChannel_of_chan ready there _

end Operations

/-- Settles O17: the range, and the three ways a commit step is brought. -/
theorem totalOverflowRefused : Obligations.TotalOverflowRefused := by
  unfold Obligations.TotalOverflowRefused
  intro s c ch vs ready there full
  have range := exec_rbAddRange_of_overflow ready there full
  refine ⟨range, ?_, fun agent before f after pre post pending => ?_⟩
  · rintro v rfl
    exact range
  have refused := commitStep_of_overflow ready there pending full
  refine ⟨fun rest next => ?_, fun cmd rest next hpre => ?_, fun noEvent hbefore hpre => ?_⟩
  · exact (step_of_commit next).trans (commitStep_of_overflow (s := { s with inbox := rest }) ready there pending full)
  · subst hpre
    exact (pending.step_of_issue ready next).trans refused
  · subst hbefore hpre
    exact (pending.step_of_drain ready noEvent).trans refused

/-- Settles O18: the newest samples stand before the part of the destination that is left. -/
theorem rbCopyLatestCopies : Obligations.RbCopyLatestCopies := by
  unfold Obligations.RbCopyLatestCopies
  refine fun s c ch n dest => ⟨rfl, fun ready there wf => ⟨exec_rbCopyLatest_of_short ready there, fun fits => ?_⟩⟩
  refine ⟨_, exec_rbCopyLatest ready there fits, ?_, fun i hi => ?_, fun i hi => ?_⟩
  · rw [List.length_append, Ring.length_latest, List.length_drop, Nat.add_sub_cancel' fits]
  · rw [List.getElem?_append_right (by simpa using hi), Ring.length_latest, List.getElem?_drop, Nat.add_sub_cancel' hi]
  · obtain ⟨v, hv, hbuf⟩ := Ring.getElem?_latest wf (Nat.min_le_right n.toNat _) hi
    obtain ⟨-, -, hc, -, -⟩ := Ring.wf_iff.mp wf
    refine ⟨v, by rwa [List.getElem?_append_left (by simpa using hi)], ?_⟩
    rwa [show ch.ring.head + s.cap c - min n.toNat ch.ring.count + i =
      ch.ring.head + s.cap c - (min n.toNat ch.ring.count - i) by omega]

/-- Settles O19: the samples from the cursor on are the newest ones. -/
theorem rbNewDataSinceReads : Obligations.RbNewDataSinceReads := by
  unfold Obligations.RbNewDataSinceReads
  refine fun s c ch q => ⟨rfl, fun ready there wf => ?_⟩
  intro t start
  refine ⟨_, exec_rbNewDataSince ready there q, ?_, fun i hi => ?_⟩
  · rw [Ring.since_eq_latest, Ring.length_latest]
  · obtain ⟨v, hv, hbuf⟩ := Ring.getElem?_latest wf (k := t - start) (by omega) hi
    exact ⟨v, by rwa [Ring.since_eq_latest], by rwa [← Nat.sub_sub]⟩

/-- Settles O15: the range of one value. -/
theorem rbAddAppends : Obligations.RbAddAppends := by
  unfold Obligations.RbAddAppends
  refine fun s c ch v => ⟨rfl, fun ready there room => ?_⟩
  rw [exec_rbAdd_eq_exec_rbAddRange, exec_rbAddRange (vs := [v]) ready there room]
  rfl

/-- Settles O22: a buffer whose elements hold no value is the empty one of its length. -/
theorem rbClearEmpties : Obligations.RbClearEmpties := by
  unfold Obligations.RbClearEmpties
  refine fun s c ch => ⟨rfl, fun ready there => ?_⟩
  rw [exec_rbClear ready there, ← List.map_const']
  rfl

/-- Settles O23: the two reads, and the bound on `COUNT` from the canonical form. -/
theorem rbCapacityAndCount : Obligations.RbCapacityAndCount := by
  unfold Obligations.RbCapacityAndCount
  refine fun s c ch cap => ⟨rfl, rfl, fun ready there hcap => ?_⟩
  obtain rfl : s.cap c = cap := by rw [State.cap, List.getD, hcap, Option.getD_some]
  refine ⟨rfl, exec_rbCapacity ready there, exec_rbCount ready there, fun wf => ?_⟩
  obtain ⟨-, -, hc, -, -⟩ := Ring.wf_iff.mp wf
  exact hc

end Sys2Proof.Machine
end

section
/-! PROOFS. Runs of writes to one RingBuffer (40_ringbuffer.md R142, R148, R151): one induction says what they leave, and the reads
after them follow. -/

namespace Sys2Proof.Machine

/-- A run that completes, then another. -/
theorem execAll_append {is js : List Instr} {s t : State} (h : execAll is s = .next t) :
    execAll (is ++ js) s = execAll js t := by
  induction is generalizing s with
  | nil => cases h; rfl
  | cons i is ih =>
      rw [execAll] at h
      rw [List.cons_append, execAll]
      split at h
      · exact ih h
      · cases h
      · cases h

theorem execAll_singleton {i : Instr} {s t : State} (h : exec i s = .next t) : execAll [i] s = .next t := by
  simp only [execAll, h]

/-- The values of one write, in order. -/
abbrev valuesOfWrite (w : F64 ⊕ List F64) : List F64 := Sum.elim (fun v => [v]) id w

theorem writtenValues_cons (w : F64 ⊕ List F64) (ws : List (F64 ⊕ List F64)) :
    writtenValues (w :: ws) = valuesOfWrite w ++ writtenValues ws := List.flatMap_cons

/-- Either write is the range of its values. -/
theorem exec_write (c : BitVec 8) (w : F64 ⊕ List F64) (s : State) :
    exec (Sum.elim (Instr.rbAdd c) (Instr.rbAddRange c) w) s = exec (.rbAddRange c (valuesOfWrite w)) s := by
  cases w <;> rfl

theorem State.chan?_setRing_self {s : State} {c : BitVec 8} {ch : Channel} (there : s.chan? c = some ch) (r : Ring) :
    (s.setRing c ch r).chan? c = some { ch with ring := r } := State.chan?_setChan_self there

@[simp] theorem State.cap_setRing (s : State) (c d : BitVec 8) (ch : Channel) (r : Ring) :
    (s.setRing c ch r).cap d = s.cap d := rfl

/-- The RingBuffer stored last is the one that stays. -/
theorem State.setRing_answer_setRing (s : State) (c : BitVec 8) (ch : Channel) (r q : Ring) (reply : Reply) :
    ((s.setRing c ch r).answer reply).setRing c { ch with ring := r } q = (s.setRing c ch q).answer reply := by
  simp only [State.setRing, State.setChan, State.answer, List.set_set]

section Writes

variable {s : State} {c : BitVec 8} {ch : Channel}

/-- Writes leave all their values appended in order, and nothing else. -/
theorem execAll_writeOps (ready : s.ready = true) (there : s.chan? c = some ch) {ws : List (F64 ⊕ List F64)}
    (room : ch.ring.total.toNat + (writtenValues ws).length < 2 ^ 64) :
    ∃ reply, execAll (writeOps c ws) s =
      .next ((s.setRing c ch ((writtenValues ws).foldl (Ring.add (s.cap c)) ch.ring)).answer reply) := by
  induction ws generalizing s ch with
  | nil => exact ⟨s.reply, congrArg Host.Outcome.next (State.setChan_self there).symm⟩
  | cons w ws ih =>
      rw [writtenValues_cons, List.length_append] at room
      have total := Ring.foldl_add_total (cap := s.cap c) (r := ch.ring) (valuesOfWrite w) (by omega)
      obtain ⟨reply, hrun⟩ := ih (s := (s.setRing c ch _).answer .none) ready (State.chan?_setRing_self there _)
        (by rw [total]; omega)
      refine ⟨reply, ?_⟩
      rw [writeOps, List.map_cons, execAll, exec_write, exec_rbAddRange ready there (by omega)]
      refine hrun.trans ?_
      rw [State.setRing_answer_setRing, State.answer_answer, State.cap_answer, State.cap_setRing, writtenValues_cons,
        List.foldl_append]

/-- An operation after writes runs in a ready state whose channel has all the values appended. -/
theorem execAll_writeOps_then (ready : s.ready = true) (there : s.chan? c = some ch) {ws : List (F64 ⊕ List F64)}
    (room : ch.ring.total.toNat + (writtenValues ws).length < 2 ^ 64) :
    ∃ u, u.ready = true ∧
      u.chan? c = some { ch with ring := (writtenValues ws).foldl (Ring.add (s.cap c)) ch.ring } ∧ u.cap c = s.cap c ∧
      ∀ {i t}, exec i u = .next t → execAll (writeOps c ws ++ [i]) s = .next t := by
  obtain ⟨reply, hrun⟩ := execAll_writeOps ready there room
  exact ⟨(s.setRing c ch _).answer reply, ready, State.chan?_setRing_self there _, rfl,
    fun h => (execAll_append hrun).trans (execAll_singleton h)⟩

end Writes

/-- Settles O16: adds are the writes that are all single values. -/
theorem rbAddRangeIsRepeatedAdd : Obligations.RbAddRangeIsRepeatedAdd := by
  unfold Obligations.RbAddRangeIsRepeatedAdd
  refine fun s c ch vs => ⟨rfl, fun ready there room => ?_⟩
  have ops : vs.map (Instr.rbAdd c) = writeOps c (vs.map Sum.inl) := by simp [writeOps]
  have values : writtenValues (vs.map Sum.inl) = vs := by simp [writtenValues, List.flatMap_map]
  obtain ⟨reply, hrun⟩ := execAll_writeOps (ws := vs.map Sum.inl) ready there (by rwa [values])
  rw [← ops, values] at hrun
  exact ⟨_, hrun, exec_rbAddRange ready there room, _, State.chan?_setRing_self there _, Ring.foldl_add_total vs room, rfl, rfl⟩

/-- Settles O20: from an empty RingBuffer every sample held is one of the values written. -/
theorem latestAreLastWritten : Obligations.LatestAreLastWritten := by
  unfold Obligations.LatestAreLastWritten
  intro s c ch ws n dest ready there wf empty room
  obtain ⟨u, uready, uthere, ucap, run⟩ := execAll_writeOps_then ready there room
  generalize writtenValues ws = vs at room uthere ⊢
  dsimp only
  generalize hk : min n.toNat (min vs.length (s.cap c)) = k
  have count : (vs.foldl (Ring.add (s.cap c)) ch.ring).count = min vs.length (s.cap c) := by
    rw [Ring.foldl_add_count vs (by omega), empty, Nat.zero_add]
  have latest : (vs.foldl (Ring.add (s.cap c)) ch.ring).latest (s.cap c) k = vs.drop (vs.length - k) :=
    Ring.latest_foldl_add wf room (by omega) (by omega)
  refine ⟨⟨_, run (exec_rbCount uready uthere), congrArg Reply.count count⟩, fun fits => ?_⟩
  refine ⟨_, run (exec_rbCopyLatest uready uthere (by rwa [count, hk])), ?_⟩
  simp only [State.answer_reply, count, hk, ucap, latest]

/-- Settles O21: what is new since the cursor is what was written, and the capacity bounds what is held of it. -/
theorem cursorReadsWhatIsNew : Obligations.CursorReadsWhatIsNew := by
  unfold Obligations.CursorReadsWhatIsNew
  intro s c ch ws ready there wf room
  obtain ⟨u, uready, uthere, ucap, run⟩ := execAll_writeOps_then ready there room
  obtain ⟨-, -, hc, -, -⟩ := Ring.wf_iff.mp wf
  refine ⟨_, run (exec_rbNewDataSince uready uthere ch.ring.total), ?_⟩
  generalize writtenValues ws = vs at room ⊢
  have total := Ring.foldl_add_total (cap := s.cap c) vs room
  have cursor : (vs.foldl (Ring.add (s.cap c)) ch.ring).total = ch.ring.total + BitVec.ofNat 64 vs.length := by
    refine BitVec.eq_of_toNat_eq ?_
    rw [total, BitVec.toNat_add, BitVec.toNat_ofNat, Nat.add_mod_mod, Nat.mod_eq_of_lt room]
  have new : ch.ring.total.toNat + vs.length - max (min ch.ring.total.toNat (ch.ring.total.toNat + vs.length))
      (ch.ring.total.toNat + vs.length - min (ch.ring.count + vs.length) (s.cap c)) = min vs.length (s.cap c) := by
    omega
  have seq : (vs.foldl (Ring.add (s.cap c)) ch.ring).since (s.cap c) ch.ring.total = vs.drop (vs.length - s.cap c) := by
    rw [Ring.since_eq_latest, total, Ring.foldl_add_count vs hc, new, Ring.latest_foldl_add wf room (by omega) (by omega)]
    congr 1
    omega
  rw [State.answer_reply, ucap, seq, cursor]

end Sys2Proof.Machine
end

section
/-! PROOFS. An operation on a channel writes that channel and the result port (40_ringbuffer.md R140, 43_digitalfilter.md R230,
44_resampler.md R280). -/

namespace Sys2Proof.Machine

/-- A variant row names the channel of its base row. -/
theorem channelOf_base (i : Instr) : channelOf i.base = channelOf i := by
  cases i <;> rfl

/-- The operations on a channel name it. -/
theorem ChannelEffect.channelOf_eq {s : State} {c : BitVec 8} {ch ch' : Channel} {i : Instr}
    (e : ChannelEffect s c ch i ch') : channelOf i = some c := by
  cases e <;> rfl

/-- Of a base operation that names a channel, the effect is that on its channel. -/
theorem Effect.exists_setChan {s t : State} {i : Instr} {c : BitVec 8} (e : Effect s i t) (h : channelOf i = some c) :
    ∃ ch reply, t = (s.setChan c ch).answer reply := by
  cases e with
  | sysReset | fpDiscard | fpParse | chProcessBlock | rsKeepFactor | rsSetFactor | rsReset => cases h
  | channel _ _ effect =>
      obtain rfl : _ = c := Option.some.inj (effect.channelOf_eq.symm.trans h)
      exact ⟨_, _, rfl⟩

/-- Settles O12: one channel and the result port are written. -/
theorem channelOperationsAreLocal : Obligations.ChannelOperationsAreLocal := by
  unfold Obligations.ChannelOperationsAreLocal
  intro s t i c hi h
  obtain ⟨ch, reply, rfl⟩ := (effect_of_exec h).exists_setChan ((channelOf_base i).trans hi)
  exact ⟨rfl, List.length_set, fun d hd => by rw [State.chan?_answer, State.chan?_setChan_of_ne hd]⟩

end Sys2Proof.Machine
end

section
/-! PROOFS. Decoding piece by piece (41_frameparser.md R170 to R190). Both decoders are one loop over a reader that finds the next item
of a byte string: a frame from its marker on, or a line up to its terminator. What a reader has found it finds again when more bytes
follow (`Reader.Online`), so its loop may stop after any chunk and go on from the residue (`Reader.scan_append`); and the bytes that
the cap drops from the residue are bytes the reader skips (`Reader.Skips`). -/

namespace Sys2Proof.Machine

/-! ### Readers -/

/-- What finds the first item of a byte string and the number of bytes up to its end. -/
abbrev Reader (α : Type) := List Byte → Option (α × Nat)

/-- The items a reader finds one after another, and the bytes after the last; `fuel` bounds their number. -/
def Reader.items {α : Type} (read : Reader α) : Nat → List Byte → List α × List Byte
  | 0, rest => ([], rest)
  | fuel + 1, rest =>
      match read rest with
      | none => ([], rest)
      | some (x, n) => (x :: (read.items fuel (rest.drop n)).1, (read.items fuel (rest.drop n)).2)

/-- All items of a byte string, with the fuel the decoders of the model take. -/
def Reader.scan {α : Type} (read : Reader α) (data : List Byte) : List α × List Byte := read.items (data.length + 1) data

/-- An item holds a byte, ends inside the string, and is found again when more bytes follow. -/
structure Reader.Online {α : Type} (read : Reader α) : Prop where
  pos : ∀ {data x n}, read data = some (x, n) → 0 < n
  le : ∀ {data x n}, read data = some (x, n) → n ≤ data.length
  append : ∀ {data x n} (more : List Byte), read data = some (x, n) → read (data ++ more) = some (x, n)

/-- The reader finds the same whether or not it is given the first `k` bytes. -/
def Reader.Skips {α : Type} (read : Reader α) (data : List Byte) (k : Nat) : Prop :=
  read data = (read (data.drop k)).map (fun u => (u.1, k + u.2))

theorem Reader.skips_zero {α : Type} (read : Reader α) (data : List Byte) : read.Skips data 0 := by
  simp [Reader.Skips]

section Scan

variable {α : Type} {read : Reader α}

/-- What is left is a tail of what was given. -/
theorem Reader.items_suffix (read : Reader α) (fuel : Nat) (data : List Byte) : (read.items fuel data).2 <:+ data := by
  induction fuel generalizing data with
  | zero => exact List.suffix_rfl
  | succ fuel ih =>
      unfold Reader.items
      split
      · exact List.suffix_rfl
      · exact (ih _).trans (List.drop_suffix ..)

/-- Fuel for every byte is enough. -/
theorem Reader.Online.items_eq (online : read.Online) {fuel fuel' : Nat} {data : List Byte} (h : data.length ≤ fuel)
    (h' : data.length ≤ fuel') : read.items fuel data = read.items fuel' data := by
  induction fuel generalizing fuel' data with
  | zero =>
      cases fuel' with
      | zero => rfl
      | succ fuel' =>
          unfold Reader.items
          split
          · rfl
          · next hread => have := online.pos hread; have := online.le hread; omega
  | succ fuel ih =>
      cases hread : read data with
      | none => cases fuel' <;> simp [Reader.items, hread]
      | some u =>
          have := online.pos hread
          have := online.le hread
          obtain ⟨fuel', rfl⟩ : ∃ n, fuel' = n + 1 := ⟨fuel' - 1, by omega⟩
          have hrest : read.items fuel (data.drop u.2) = read.items fuel' (data.drop u.2) :=
            ih (by rw [List.length_drop]; omega) (by rw [List.length_drop]; omega)
          simp only [Reader.items, hread, hrest]

theorem Reader.scan_of_none {data : List Byte} (h : read data = none) : read.scan data = ([], data) := by
  simp only [Reader.scan, Reader.items, h]

/-- An item found goes first, and the scan goes on behind it. -/
theorem Reader.Online.scan_of_some (online : read.Online) {data : List Byte} {x : α} {n : Nat} (h : read data = some (x, n)) :
    read.scan data = (x :: (read.scan (data.drop n)).1, (read.scan (data.drop n)).2) := by
  have := online.pos h
  have hrest : read.items data.length (data.drop n) = read.scan (data.drop n) :=
    online.items_eq (by rw [List.length_drop]; omega) (Nat.le_succ _)
  rw [Reader.scan, Reader.items, h, ← hrest]

/-- Induction along a scan: no item is left, or one is found and the rest is shorter. -/
theorem Reader.Online.induction (online : read.Online) {motive : List Byte → Prop}
    (ends : ∀ data, read data = none → motive data)
    (found : ∀ data x n, read data = some (x, n) → motive (data.drop n) → motive data) (data : List Byte) : motive data := by
  cases h : read data with
  | none => exact ends data h
  | some u =>
      have := online.pos h
      have := online.le h
      exact found data u.1 u.2 h (Reader.Online.induction online ends found (data.drop u.2))
termination_by data.length
decreasing_by rw [List.length_drop]; omega

/-- A scan goes on until nothing is found. -/
theorem Reader.Online.read_residue (online : read.Online) (data : List Byte) : read (read.scan data).2 = none := by
  induction data using online.induction with
  | ends data h => rwa [Reader.scan_of_none h]
  | found data x n h ih => rwa [online.scan_of_some h]

/-- A scan may stop anywhere and go on from what is left. -/
theorem Reader.Online.scan_append (online : read.Online) (data more : List Byte) :
    read.scan (data ++ more) =
      ((read.scan data).1 ++ (read.scan ((read.scan data).2 ++ more)).1, (read.scan ((read.scan data).2 ++ more)).2) := by
  induction data using online.induction with
  | ends data h => rw [Reader.scan_of_none h]; rfl
  | found data x n h ih =>
      rw [online.scan_of_some h, online.scan_of_some (online.append more h), List.drop_append_of_le_length (online.le h), ih]
      rfl

/-- Bytes the reader skips, and the cap drops, may be dropped before the scan. -/
theorem Reader.Online.scan_drop (online : read.Online) {data : List Byte} {k cap : Nat} (skips : read.Skips data k)
    (hk : k ≤ data.length - cap) :
    (read.scan (data.drop k)).1 = (read.scan data).1 ∧
      capResidue cap (read.scan (data.drop k)).2 = capResidue cap (read.scan data).2 := by
  unfold Reader.Skips at skips
  cases h : read (data.drop k) with
  | none =>
      rw [h] at skips
      rw [Reader.scan_of_none h, Reader.scan_of_none skips]
      refine ⟨rfl, ?_⟩
      simp only [capResidue, List.drop_drop, List.length_drop]
      congr 1
      omega
  | some u =>
      rw [h] at skips
      rw [online.scan_of_some h, online.scan_of_some skips, List.drop_drop]
      exact ⟨rfl, rfl⟩

end Scan

/-! ### The two formats -/

/-- A pattern found inside a string ends inside it. -/
theorem le_length_of_findAt {pat data : List Byte} {p : Nat} (h : findAt pat data = some p) : p + pat.length ≤ data.length := by
  obtain ⟨hp, stands, -⟩ := findAt_eq_some.mp h
  have hlen := congrArg List.length stands
  simp only [List.length_take, List.length_drop] at hlen
  omega

/-- The leftmost pattern stays it when more bytes follow. -/
theorem findAt_append_right {pat data : List Byte} {p : Nat} (h : findAt pat data = some p) (more : List Byte) :
    findAt pat (data ++ more) = some p := by
  have hp := le_length_of_findAt h
  obtain ⟨-, stands, leftmost⟩ := findAt_eq_some.mp h
  refine findAt_eq_some.mpr ⟨by rw [List.length_append]; omega, (standsAt_append_right hp more).mpr stands, fun q hq => ?_⟩
  rw [standsAt_append_right (by omega)]
  exact leftmost q hq

/-- A search skips bytes at which no pattern starts. -/
theorem findAt_drop {pat data : List Byte} {k : Nat} (hk : k ≤ data.length) (fresh : ∀ q < k, ¬ standsAt pat data q) :
    findAt pat data = (findAt pat (data.drop k)).map (k + ·) := by
  induction k generalizing data with
  | zero => simp
  | succ k ih =>
      cases data with
      | nil => simp at hk
      | cons b rest =>
          have hzero : ¬ pat.isPrefixOf (b :: rest) = true := fun h => fresh 0 (by omega) (standsAt_zero.mpr h)
          rw [findAt, if_neg hzero, ih (Nat.le_of_succ_le_succ hk) fun q hq => fresh (q + 1) (by omega), Option.map_map,
            List.drop_succ_cons]
          congr 1
          funext p
          simp only [Function.comp_apply]
          omega

/-- The frame of the leftmost marker, if the string holds all of it (R171). -/
def frameReader (cr : Params) : Reader (List F64) := fun data =>
  (findAt cr.marker data).bind fun p =>
    if p + cr.frameBytes ≤ data.length then some (decodeFrame cr data p, p + cr.frameBytes) else none

/-- The line before the leftmost terminator (R180). -/
def lineReader (term : List Byte) : Reader (List Byte) := fun data =>
  (findAt term data).map fun t => (data.take t, t + term.length)

section Frames

variable {cr : Params} {data : List Byte}

theorem frameReader_eq_some {f : List F64} {n : Nat} : frameReader cr data = some (f, n) ↔
    ∃ p, findAt cr.marker data = some p ∧ p + cr.frameBytes ≤ data.length ∧ f = decodeFrame cr data p ∧ n = p + cr.frameBytes := by
  simp only [frameReader, Option.bind_eq_some_iff, Option.ite_none_right_eq_some, Option.some.injEq, Prod.mk.injEq,
    eq_comm (a := decodeFrame _ _ _), eq_comm (a := _ + Params.frameBytes _)]

/-- No frame is read exactly where none is complete. -/
theorem frameReader_eq_none : frameReader cr data = none ↔
    ∀ p, findAt cr.marker data = some p → data.length < p + cr.frameBytes := by
  simp only [frameReader, Option.bind_eq_none_iff, ite_eq_right_iff, reduceCtorEq, imp_false, not_le]

theorem binaryLoop_eq_items (cr : Params) (fuel : Nat) (data : List Byte) :
    binaryLoop cr fuel data = (frameReader cr).items fuel data := by
  induction fuel generalizing data with
  | zero => rfl
  | succ fuel ih =>
      cases hfind : findAt cr.marker data with
      | none => simp [binaryLoop, Reader.items, frameReader, hfind]
      | some p =>
          by_cases complete : p + cr.frameBytes ≤ data.length
          · simp [binaryLoop, Reader.items, frameReader, hfind, complete, complete.not_gt, ih]
          · simp [binaryLoop, Reader.items, frameReader, hfind, complete, not_le.mp complete]

theorem parseBinary_eq_scan (cr : Params) (data : List Byte) : parseBinary cr data = (frameReader cr).scan data :=
  binaryLoop_eq_items cr _ data

/-- A frame decodes from its own bytes. -/
theorem decodeFrame_append {p : Nat} (complete : p + cr.frameBytes ≤ data.length) (more : List Byte) :
    decodeFrame cr (data ++ more) p = decodeFrame cr data p := by
  refine List.map_congr_left fun c hc => ?_
  have hend : (c + 1) * elemWidth cr.etype ≤ cr.nch * elemWidth cr.etype :=
    Nat.mul_le_mul_right _ (List.mem_range.mp hc)
  rw [Nat.succ_mul] at hend
  rw [Params.frameBytes] at complete
  rw [List.drop_append_of_le_length (by omega), List.take_append_of_le_length (by rw [List.length_drop]; omega)]

theorem decodeFrame_drop (cr : Params) (data : List Byte) (k p : Nat) :
    decodeFrame cr (data.drop k) p = decodeFrame cr data (k + p) := by
  simp only [decodeFrame, List.drop_drop, Nat.add_assoc]

theorem frameReader_online (marker : cr.marker ≠ []) : (frameReader cr).Online where
  pos h := by
    obtain ⟨p, -, -, -, rfl⟩ := frameReader_eq_some.mp h
    have := List.length_pos_iff.mpr marker
    rw [Params.frameBytes]
    omega
  le h := by
    obtain ⟨p, -, complete, -, rfl⟩ := frameReader_eq_some.mp h
    exact complete
  append more h := by
    obtain ⟨p, hfind, complete, rfl, rfl⟩ := frameReader_eq_some.mp h
    exact frameReader_eq_some.mpr ⟨p, findAt_append_right hfind more, by rw [List.length_append]; omega,
      (decodeFrame_append complete more).symm, rfl⟩

/-- The frame reader skips bytes at which no marker starts. -/
theorem frameReader_skips {k : Nat} (hk : k ≤ data.length) (fresh : ∀ q < k, ¬ standsAt cr.marker data q) :
    (frameReader cr).Skips data k := by
  rw [Reader.Skips, frameReader, frameReader, findAt_drop hk fresh]
  cases findAt cr.marker (data.drop k) with
  | none => rfl
  | some p =>
      have hfits : k + p + cr.frameBytes ≤ data.length ↔ p + cr.frameBytes ≤ data.length - k := by omega
      simp only [Option.map_some, Option.bind_some, List.length_drop, hfits, decodeFrame_drop]
      split
      · rw [Option.map_some, Nat.add_assoc]
      · rfl

/-- Of bytes that hold no complete frame no marker starts before the last `FRAME_BYTES`, whatever follows them. -/
theorem not_standsAt_of_frameReader_eq_none (unread : frameReader cr data = none) {q : Nat}
    (early : q + cr.frameBytes ≤ data.length) (more : List Byte) : ¬ standsAt cr.marker (data ++ more) q := by
  intro stands
  have hmarker : cr.marker.length ≤ cr.frameBytes := Nat.le_add_right ..
  rw [standsAt_append_right (by omega)] at stands
  cases hfind : findAt cr.marker data with
  | none => exact findAt_eq_none.mp hfind q (by omega) stands
  | some p =>
      have hpast := frameReader_eq_none.mp unread p hfind
      obtain ⟨-, -, leftmost⟩ := findAt_eq_some.mp hfind
      exact leftmost q (by omega) stands

end Frames

section Lines

variable {term data : List Byte}

theorem lineReader_eq_some {line : List Byte} {n : Nat} : lineReader term data = some (line, n) ↔
    ∃ t, findAt term data = some t ∧ line = data.take t ∧ n = t + term.length := by
  simp only [lineReader, Option.map_eq_some_iff, Prod.mk.injEq, eq_comm (a := List.take _ _), eq_comm (a := _ + List.length _)]

theorem lineReader_eq_none : lineReader term data = none ↔ findAt term data = none := Option.map_eq_none_iff

theorem linesOf_eq_items (term : List Byte) (fuel : Nat) (data : List Byte) :
    linesOf term fuel data = (lineReader term).items fuel data := by
  induction fuel generalizing data with
  | zero => rfl
  | succ fuel ih => cases hfind : findAt term data <;> simp [linesOf, Reader.items, lineReader, hfind, ih]

theorem lineReader_online (nonempty : term ≠ []) : (lineReader term).Online where
  pos h := by
    obtain ⟨t, -, -, rfl⟩ := lineReader_eq_some.mp h
    exact Nat.add_pos_right _ (List.length_pos_iff.mpr nonempty)
  le h := by
    obtain ⟨t, hfind, -, rfl⟩ := lineReader_eq_some.mp h
    exact le_length_of_findAt hfind
  append more h := by
    obtain ⟨t, hfind, rfl, rfl⟩ := lineReader_eq_some.mp h
    have := le_length_of_findAt hfind
    exact lineReader_eq_some.mpr ⟨t, findAt_append_right hfind more, (List.take_append_of_le_length (by omega)).symm, rfl⟩

/-- The frames of a line by its bytes: none when it is blank (30_encoding.md R109). -/
def framesOfLine (cr : Params) (line : List Byte) : List (List F64) :=
  if isBlank cr.delim line then [] else [lineFrame cr line]

theorem asciiLoop_eq_items (cr : Params) (fuel : Nat) (data : List Byte) :
    asciiLoop cr fuel data =
      (((lineReader cr.term).items fuel data).1.flatMap (framesOfLine cr), ((lineReader cr.term).items fuel data).2) := by
  induction fuel generalizing data with
  | zero => rfl
  | succ fuel ih =>
      cases hfind : findAt cr.term data with
      | none => simp [asciiLoop, Reader.items, lineReader, hfind]
      | some t =>
          simp only [asciiLoop, Reader.items, lineReader, hfind, ih, Option.map_some, List.flatMap_cons, framesOfLine]
          split <;> rfl

theorem parseAscii_eq_scan (cr : Params) (data : List Byte) : parseAscii cr data =
    (((lineReader cr.term).scan data).1.flatMap (framesOfLine cr), ((lineReader cr.term).scan data).2) :=
  asciiLoop_eq_items cr _ data

end Lines

/-! ### One parse -/

/-- Settles O27: the scan of the frame reader, from its first frame or its end. -/
theorem binaryScan : Obligations.BinaryScan := by
  unfold Obligations.BinaryScan
  intro cr data marker
  simp only [parseBinary_eq_scan]
  refine ⟨rfl, fun p stands leftmost complete => ?_, fun incomplete => Reader.scan_of_none ?_⟩
  · have hfind : findAt cr.marker data = some p := findAt_eq_some.mpr ⟨by omega, stands, leftmost⟩
    exact (frameReader_online marker).scan_of_some (frameReader_eq_some.mpr ⟨p, hfind, complete, rfl, rfl⟩)
  · refine frameReader_eq_none.mpr fun p hfind => ?_
    obtain ⟨-, stands, leftmost⟩ := findAt_eq_some.mp hfind
    exact incomplete p stands leftmost

/-- The residue of either decoder is a tail of its data. -/
theorem selectedDecoder_suffix (mode : Mode) (cr : Params) (data : List Byte) : (selectedDecoder mode cr data).2 <:+ data := by
  cases mode with
  | binary => rw [selectedDecoder, parseBinary_eq_scan]; exact Reader.items_suffix ..
  | ascii => rw [selectedDecoder, parseAscii_eq_scan]; exact Reader.items_suffix ..

theorem length_byChannel (nch : Nat) (frames : List (List F64)) : (byChannel nch frames).length = nch := by
  rw [byChannel, List.length_map, List.length_range]

/-- Every channel is given one sample per frame (R174). -/
theorem length_of_mem_byChannel {nch : Nat} {frames : List (List F64)} {a : List F64} (h : a ∈ byChannel nch frames) :
    a.length = frames.length := by
  obtain ⟨c, -, rfl⟩ := List.mem_map.mp h
  exact List.length_map _

/-- Settles O26: the exception answers empty arrays and the empty residue, a parse one array per channel and a capped tail. -/
theorem parseShapeAndResidue : Obligations.ParseShapeAndResidue := by
  unfold Obligations.ParseShapeAndResidue
  intro s t chunk fault samples status hexec hreply
  obtain ⟨-, -, ⟨-, rfl⟩ | ⟨-, rfl⟩⟩ := parseWith_next hexec
  · obtain ⟨rfl, -⟩ := Reply.parsed.inj hreply
    refine ⟨List.length_replicate, fun a ha b hb => ?_, Nat.zero_le _, List.nil_suffix⟩
    rw [List.eq_of_mem_replicate ha, List.eq_of_mem_replicate hb]
  · obtain ⟨rfl, -⟩ := Reply.parsed.inj hreply
    refine ⟨length_byChannel .., fun a ha b hb => ?_, length_capResidue_le .., ?_⟩
    · rw [length_of_mem_byChannel ha, length_of_mem_byChannel hb]
    · exact (List.drop_suffix ..).trans (selectedDecoder_suffix ..)

/-- A chunk longer than `CHUNK_MAX` is refused (60_exceptions.md R325 c). -/
theorem exec_fpParse_of_long {s : State} {chunk : List Byte} (ready : s.ready = true) (long : s.cr.chunkMax < chunk.length)
    (fault : Bool) : exec (.fpParse chunk fault) s = .refused .chunkTooLong := by
  simp only [exec, execFpParse, parseWith, whenReady_of_ready ready, if_pos long]

/-- Settles O25: a variant row does what its base row does, and that is the parse of the mode's decoder. -/
theorem parseRuns : Obligations.ParseRuns := by
  unfold Obligations.ParseRuns
  intro s chunk fault
  refine ⟨rfl, fun ready => ⟨fun long => exec_fpParse_of_long ready long fault, fun short out => ⟨?_, ?_⟩⟩⟩
  all_goals
    rintro mode rfl i hi
    have hbase : i.base = .fpParse chunk false := by
      simp only [List.mem_cons, List.not_mem_nil, or_false] at hi
      obtain rfl | rfl := hi <;> rfl
    rw [exec_eq_exec_base, hbase, exec_fpParse ready short, mode]
    rfl

/-! ### Two parses -/

/-- The samples of two runs of frames stand one after the other, channel by channel. -/
theorem byChannel_append (nch : Nat) (fs gs : List (List F64)) :
    byChannel nch (fs ++ gs) = List.zipWith (· ++ ·) (byChannel nch fs) (byChannel nch gs) := by
  simp only [byChannel, List.zipWith_map, List.zipWith_self, List.map_append]

/-- A decoder may stop between `data` and `more`, keep its capped residue, and go on from there (R190). -/
structure Resumes (decode : List Byte → List (List F64) × List Byte) (cap : Nat) (data more : List Byte) : Prop where
  frames : (decode (data ++ more)).1 = (decode data).1 ++ (decode (capResidue cap (decode data).2 ++ more)).1
  residue : capResidue cap (decode (capResidue cap (decode data).2 ++ more)).2 = capResidue cap (decode (data ++ more)).2

/-- Cutting a chunk changes nothing when the decoder resumes at the cut. -/
theorem exec_fpParse_append {s : State} {a b : List Byte} (ready : s.ready = true) (short : (a ++ b).length ≤ s.cr.chunkMax)
    (resumes : Resumes (selectedDecoder s.cr.mode s.cr) s.cr.residueCap (s.res ++ a) b) :
    ∃ t ta tb xs xa xb,
      exec (.fpParse (a ++ b) false) s = .next t ∧ t.reply = .parsed xs .ok ∧
      exec (.fpParse a false) s = .next ta ∧ ta.reply = .parsed xa .ok ∧
      exec (.fpParse b false) ta = .next tb ∧ tb.reply = .parsed xb .ok ∧
      xs = List.zipWith (· ++ ·) xa xb ∧ tb.res = t.res := by
  rw [List.length_append] at short
  refine ⟨_, _, _, _, _, _, exec_fpParse ready (by rw [List.length_append]; omega), rfl, exec_fpParse ready (by omega), rfl,
    exec_fpParse ready (by dsimp only; omega), rfl, ?_, ?_⟩
  · rw [← List.append_assoc, resumes.frames, byChannel_append]
  · rw [← List.append_assoc]
    exact resumes.residue

/-- A scan resumes after the cap where the reader skips what the cap drops. -/
theorem Reader.Online.scan_capResidue {α : Type} {read : Reader α} (online : read.Online) {data more : List Byte} {cap : Nat}
    (skips : read.Skips ((read.scan data).2 ++ more) ((read.scan data).2.length - cap)) :
    (read.scan (data ++ more)).1 = (read.scan data).1 ++ (read.scan (capResidue cap (read.scan data).2 ++ more)).1 ∧
      capResidue cap (read.scan (capResidue cap (read.scan data).2 ++ more)).2 = capResidue cap (read.scan (data ++ more)).2 := by
  obtain ⟨hitems, hresidue⟩ := online.scan_drop (cap := cap) skips (by rw [List.length_append]; omega)
  rw [List.drop_append_of_le_length (by omega), ← capResidue] at hitems hresidue
  rw [online.scan_append data more, hitems, hresidue]
  exact ⟨rfl, rfl⟩

/-- In binary mode a legal cap holds a frame (00_scope.md R6). -/
theorem frameBytes_le_residueCap {cr : Params} (legal : cr.legal = true) (mode : cr.mode = .binary) :
    cr.frameBytes ≤ cr.residueCap := by
  obtain ⟨-, -, -, -, -, -, -, -, -, -, -, -, hbinary, -⟩ := (legalConstruction cr).mp legal
  exact hbinary mode

/-- The binary decoder resumes anywhere: before the last `RESIDUE_CAP` bytes of a residue no marker starts. -/
theorem parseBinary_resumes {cr : Params} (marker : cr.marker ≠ []) {cap : Nat} (fits : cr.frameBytes ≤ cap)
    (data more : List Byte) : Resumes (parseBinary cr) cap data more := by
  have online := frameReader_online marker
  have unread := online.read_residue data
  obtain ⟨hframes, hresidue⟩ := online.scan_capResidue (cap := cap) (data := data) (more := more)
    (frameReader_skips (by rw [List.length_append]; omega)
      fun q hq => not_standsAt_of_frameReader_eq_none unread (by omega) more)
  simp only [← parseBinary_eq_scan] at hframes hresidue
  exact ⟨hframes, hresidue⟩

/-- Settles O29: the binary decoder resumes anywhere. -/
theorem binaryChunkBoundary : Obligations.BinaryChunkBoundary := by
  unfold Obligations.BinaryChunkBoundary
  intro s a b ready legal mode short
  refine exec_fpParse_append ready short ?_
  rw [mode]
  exact parseBinary_resumes (delimiters_ne_nil_of_legal legal).1 (frameBytes_le_residueCap legal mode) _ _

/-- If the first line fits into the cap, then of an unterminated beginning the line reader skips what the cap drops. -/
theorem lineReader_skips {term data more : List Byte} {cap : Nat} (unread : lineReader term data = none)
    (fits : ∀ line n, lineReader term (data ++ more) = some (line, n) → n ≤ cap) :
    (lineReader term).Skips (data ++ more) (data.length - cap) := by
  by_cases hcap : data.length ≤ cap
  · rw [Nat.sub_eq_zero_of_le hcap]
    exact Reader.skips_zero _ _
  -- a terminator would stand within the cap, so inside `data`
  have hfind : findAt term (data ++ more) = none := by
    cases hfind : findAt term (data ++ more) with
    | none => rfl
    | some t =>
        have hn := fits _ _ (lineReader_eq_some.mpr ⟨t, hfind, rfl, rfl⟩)
        obtain ⟨-, stands, -⟩ := findAt_eq_some.mp hfind
        rw [standsAt_append_right (by omega)] at stands
        exact absurd stands (findAt_eq_none.mp (lineReader_eq_none.mp unread) t (by omega))
  have hdrop : findAt term ((data ++ more).drop (data.length - cap)) = none := by
    refine findAt_eq_none.mpr fun q hq => ?_
    rw [standsAt, List.drop_drop]
    exact findAt_eq_none.mp hfind _ (by rw [List.length_drop] at hq; rw [List.length_append] at *; omega)
  rw [Reader.Skips, lineReader_eq_none.mpr hfind, lineReader_eq_none.mpr hdrop]
  rfl

/-- The ASCII decoder resumes where every line fits into the cap with its terminator. -/
theorem parseAscii_resumes {cr : Params} (term : cr.term ≠ []) {cap : Nat} {data more : List Byte}
    (fits : ∀ line ∈ ((lineReader cr.term).scan (data ++ more)).1, line.length + cr.term.length ≤ cap) :
    Resumes (parseAscii cr) cap data more := by
  have online := lineReader_online term
  have hfirst : ∀ line n, lineReader cr.term (((lineReader cr.term).scan data).2 ++ more) = some (line, n) → n ≤ cap := by
    intro line n hread
    have hmem : line ∈ ((lineReader cr.term).scan (data ++ more)).1 := by
      rw [online.scan_append, online.scan_of_some hread]
      exact List.mem_append_right _ (.head _)
    have hline := fits line hmem
    obtain ⟨t, hfind, rfl, rfl⟩ := lineReader_eq_some.mp hread
    have := le_length_of_findAt hfind
    rw [List.length_take] at hline
    omega
  obtain ⟨hlines, hresidue⟩ := online.scan_capResidue (lineReader_skips (online.read_residue data) hfirst)
  constructor
  · simp only [parseAscii_eq_scan, hlines, List.flatMap_append]
  · simp only [parseAscii_eq_scan, hresidue]

/-- Settles O31: the ASCII decoder resumes at the cut, since every line of the data fits into the cap. -/
theorem asciiChunkBoundary : Obligations.AsciiChunkBoundary := by
  unfold Obligations.AsciiChunkBoundary
  intro s a b ready legal mode short fits
  rw [linesOf_eq_items, ← List.append_assoc] at fits
  refine exec_fpParse_append ready short ?_
  rw [mode]
  exact parseAscii_resumes (delimiters_ne_nil_of_legal legal).2 fits

end Sys2Proof.Machine
end

section
/-! PROOFS. The channel stage operation by operation (42_channel_stage.md R211, R216): what CH_SET_CAL writes, and that step 0 computes
each channel from its own samples. -/

namespace Sys2Proof.Machine

/-- Settles O36: the operation on a channel that is there. -/
theorem chSetCalWrites : Obligations.ChSetCalWrites := by
  unfold Obligations.ChSetCalWrites
  exact fun s c ch gain offset => ⟨rfl, fun ready there => onChannel_of_chan ready there _⟩

/-- Step 0 of one channel hands its RingBuffer through and does not look at it. -/
theorem stageChannel_ring (t : Tables) (factor : Int) (ch : Channel) (r : Ring) (raw : List F64) :
    stageChannel t factor { ch with ring := r } raw =
      ({ (stageChannel t factor ch raw).1 with ring := r }, (stageChannel t factor ch raw).2) := rfl

/-- What a block makes of a channel that is there, and the entry it leaves for it in the record, are `stageChannel` of that channel. -/
theorem getElem?_of_exec_chProcessBlock {s t : State} {samples : List (List F64)} {c : Nat} {ch : Channel} {raw : List F64}
    (h : exec (.chProcessBlock samples) s = .next t) (hch : s.chans[c]? = some ch) (hraw : samples[c]? = some raw) :
    t.chans[c]? = some (stageChannel s.tables s.factor ch raw).1 ∧
      (t.flights.getLast?.bind (fun f => f.pending[c]?)) =
        some (BitVec.ofNat 8 c, (stageChannel s.tables s.factor ch raw).2) := by
  obtain ⟨hc, rfl⟩ := List.getElem?_eq_some_iff.mp hraw
  have staged := getElem?_stageAll (t := s.tables) (factor := s.factor) hch hc
  cases effect_of_exec h with
  | chProcessBlock =>
      constructor
      · rw [List.getElem?_map, staged, Option.map_some]
      · rw [List.getLast?_concat, Option.bind_some]
        exact getElem?_indexed (by rw [List.getElem?_map, staged, Option.map_some])
  | channel _ _ effect => cases effect

/-- Settles O39: two channels that agree but for their RingBuffers have one `stageChannel`, up to the RingBuffer. -/
theorem channelsAreIndependent : Obligations.ChannelsAreIndependent := by
  unfold Obligations.ChannelsAreIndependent
  intro s1 s2 t1 t2 ss1 ss2 c ch1 ch2 raw h1 h2 tables factor hch1 hch2 hraw1 hraw2 gain offset filter rs
  obtain ⟨chan1, pending1⟩ := getElem?_of_exec_chProcessBlock h1 hch1 hraw1
  obtain ⟨chan2, pending2⟩ := getElem?_of_exec_chProcessBlock h2 hch2 hraw2
  have same : ch2 = { ch1 with ring := ch2.ring } := by simp only [gain, offset, filter, rs]
  rw [← tables, ← factor, same, stageChannel_ring] at chan2 pending2
  exact ⟨_, _, _, chan1, chan2, rfl, rfl, pending1, pending2⟩

end Sys2Proof.Machine
end

section
/-! PROOFS. Where the values in the RingBuffers come from (42_channel_stage.md R213, R218): an append adds none but its own, a commit
appends finite ones, and no operation of the block but RB_ADD and RB_ADD_RANGE brings new ones. -/

namespace Sys2Proof.Machine

/-- A value an append leaves in `BUF` is one of those appended, or stood there. -/
theorem Ring.mem_or_getElem?_of_foldl_add {cap : Nat} {vs : List F64} {r : Ring} {i : Nat} {v : F64}
    (h : (vs.foldl (Ring.add cap) r).buf[i]? = some (some v)) : v ∈ vs ∨ r.buf[i]? = some (some v) := by
  induction vs generalizing r with
  | nil => exact .inr h
  | cons w vs ih =>
      rcases ih h with later | held
      · exact .inl (.tail _ later)
      · rw [Ring.add_buf, List.getElem?_set] at held
        split at held
        · split at held
          · cases held; exact .inl (.head _)
          · cases held
        · exact .inr held

/-- No element of a cleared RingBuffer holds a value. -/
theorem Ring.getElem?_clear_ne_some (r : Ring) (i : Nat) (v : F64) : r.clear.buf[i]? ≠ some (some v) := by
  simp [List.getElem?_replicate]

/-- Nor does one of a RingBuffer after SYS_RESET. -/
theorem Ring.getElem?_reset_ne_some (cap i : Nat) (v : F64) : (Ring.reset cap).buf[i]? ≠ some (some v) := by
  simp [Ring.reset, List.getElem?_replicate]

/-- Every channel has the RingBuffer it had. -/
theorem onlyFiniteWritten_of_ring_eq {s t : State}
    (h : ∀ d ch', t.chan? d = some ch' → ∃ ch, s.chan? d = some ch ∧ ch'.ring = ch.ring) : onlyFiniteWritten s t := by
  intro d ch' i v hch' hv
  obtain ⟨ch, hch, ring⟩ := h d ch' hch'
  exact .inr ⟨ch, hch, ring ▸ hv⟩

theorem onlyFiniteWritten_refl (s : State) : onlyFiniteWritten s s :=
  onlyFiniteWritten_of_ring_eq fun _ ch hch => ⟨ch, hch, rfl⟩

/-- One channel is stored, and its RingBuffer is no exception. -/
theorem onlyFiniteWritten_setChan {s : State} {c : BitVec 8} {ch new : Channel} (there : s.chan? c = some ch)
    (h : ∀ (i : Nat) (v : F64), new.ring.buf[i]? = some (some v) → v.isFinite = true ∨ ch.ring.buf[i]? = some (some v)) :
    onlyFiniteWritten s (s.setChan c new) := by
  intro d ch' i v hch' hv
  by_cases hdc : d = c
  · subst hdc
    obtain rfl : new = ch' := Option.some.inj ((State.chan?_setChan_self there).symm.trans hch')
    exact (h i v hv).imp_right fun held => ⟨ch, there, held⟩
  · rw [State.chan?_setChan_of_ne hdc] at hch'
    exact .inr ⟨ch', hch', hv⟩

/-- What a block has to commit stands in one of the records. -/
theorem exists_mem_of_findPending {a : Nat} {c : BitVec 8} {flights : List Flight} {values : List F64}
    (h : findPending a c flights = some values) : ∃ f ∈ flights, ∃ p ∈ f.pending, p.2 = values := by
  obtain ⟨f, hf, hp⟩ := Option.bind_eq_some_iff.mp h
  obtain ⟨p, hfound, rfl⟩ := Option.map_eq_some_iff.mp hp
  exact ⟨f, List.mem_of_find?_eq_some hf, p, List.mem_of_find?_eq_some hfound, rfl⟩

/-- A commit step appends an array of a record, whose values are finite by the invariant. -/
theorem commitStep_onlyFiniteWritten {s t : State} {a : Nat} {c : BitVec 8} (wf : s.wf = true)
    (h : commitStep s a c = .next t) : onlyFiniteWritten s t := by
  obtain ⟨-, rfl⟩ | ⟨values, ch, r, pending, ready, there, room, rfl⟩ := commitStep_next h
  · exact onlyFiniteWritten_refl _
  · obtain ⟨f, hf, p, hp, rfl⟩ := exists_mem_of_findPending pending
    obtain ⟨-, w⟩ := State.wf_iff.mp wf
    obtain ⟨-, -, -, entries⟩ := Flight.wf_iff.mp ((w ready).records f hf)
    obtain ⟨-, finite⟩ := entries p hp
    obtain ⟨-, rfl⟩ := Ring.append_eq_some.mp room
    exact onlyFiniteWritten_setChan there fun i v hv => (Ring.mem_or_getElem?_of_foldl_add hv).imp_left (finite v)

/-- Of the operations only RB_ADD and RB_ADD_RANGE bring new values into a RingBuffer. -/
theorem Effect.onlyFiniteWritten {s t : State} {i : Instr} (e : Effect s i t) (noAdd : ∀ c v, i ≠ .rbAdd c v)
    (noRange : ∀ c vs, i ≠ .rbAddRange c vs) : onlyFiniteWritten s t := by
  cases e with
  | @sysReset p =>
      intro d ch' i v hch' hv
      obtain ⟨-, hch'⟩ := State.chan?_eq_some.mp hch'
      obtain ⟨cap, -, rfl⟩ := List.mem_map.mp (List.mem_of_getElem? hch')
      exact absurd hv (Ring.getElem?_reset_ne_some cap i v)
  | fpDiscard | fpParse | rsKeepFactor => exact onlyFiniteWritten_refl s
  | chProcessBlock =>
      refine onlyFiniteWritten_of_ring_eq fun d ch' hch' => ?_
      obtain ⟨hn, hch'⟩ := State.chan?_eq_some.mp hch'
      obtain ⟨o, ho, rfl⟩ := Option.map_eq_some_iff.mp (List.getElem?_map ▸ hch')
      obtain ⟨ch, raw, hch, rfl⟩ := exists_of_getElem?_stageAll ho
      exact ⟨ch, State.chan?_eq_some.mpr ⟨hn, hch⟩, rfl⟩
  | rsSetFactor | rsReset =>
      refine onlyFiniteWritten_of_ring_eq fun d ch' hch' => ?_
      obtain ⟨hn, hch'⟩ := State.chan?_eq_some.mp hch'
      obtain ⟨ch, hch, rfl⟩ := Option.map_eq_some_iff.mp (getElem?_resetResamplers .. ▸ hch')
      exact ⟨ch, State.chan?_eq_some.mpr ⟨hn, hch⟩, rfl⟩
  | @channel _ c ch ch' _ _ there effect =>
      refine onlyFiniteWritten_setChan there fun i v hv => ?_
      cases effect with
      | rbAdd => exact absurd rfl (noAdd _ _)
      | rbAddRange => exact absurd rfl (noRange _ _)
      | rbClear => exact absurd hv (Ring.getElem?_clear_ne_some ch.ring i v)
      | _ => exact .inr hv

/-- No row but their own has RB_ADD or RB_ADD_RANGE as its base row. -/
theorem ne_rbAdd_base {i : Instr} (noAdd : ∀ c v, i ≠ .rbAdd c v) (noRange : ∀ c vs, i ≠ .rbAddRange c vs) :
    (∀ c v, i.base ≠ .rbAdd c v) ∧ ∀ c vs, i.base ≠ .rbAddRange c vs := by
  cases i with
  | rbAdd | rbAddRange => exact ⟨noAdd, noRange⟩
  | _ => exact ⟨nofun, nofun⟩

/-- Settles O42: the commit step, and each way a step brings one or performs an operation. -/
theorem committedValuesAreFinite : Obligations.CommittedValuesAreFinite := by
  unfold Obligations.CommittedValuesAreFinite
  refine ⟨fun s t agent c => commitStep_onlyFiniteWritten, fun s t wf h notAdd => ?_⟩
  rcases step_next h with ⟨-, hd⟩ | ⟨a, c, rest, -, hc⟩ | ⟨a, cmd, rest, c, -, -, hc⟩ |
    ⟨a, cmd, rest, i, next, idle, decoded, he⟩
  · obtain rfl | ⟨f, rest, p, more, -, -, hc⟩ := drainStep_next hd
    · exact onlyFiniteWritten_refl _
    · exact commitStep_onlyFiniteWritten wf hc
  · exact commitStep_onlyFiniteWritten (s := { s with inbox := rest }) wf hc
  · exact commitStep_onlyFiniteWritten wf hc
  · obtain ⟨noAdd, noRange⟩ := notAdd a cmd rest i next idle decoded
    obtain ⟨noAdd, noRange⟩ := ne_rbAdd_base noAdd noRange
    exact (effect_of_exec he).onlyFiniteWritten noAdd noRange

end Sys2Proof.Machine
end

section
/-! PROOFS. A block's commit steps one after another (42_channel_stage.md R214, R217). `AwaitsCommits` says that a record's entries are
exactly what the schedule still brings; a commit step keeps that for one entry less, and an induction over the schedule ends with
the record dropped. -/

namespace Sys2Proof.Machine

/-- A record as it stands among the others, which it no longer does with nothing left to commit (R214). -/
def Flight.unfinished (f : Flight) : List Flight := if f.pending = [] then [] else [f]

theorem Flight.unfinished_of_ne_nil {f : Flight} (h : f.pending ≠ []) : f.unfinished = [f] := if_neg h

/-- The last record after one of its commits. -/
theorem afterCommit_nil (before : List Flight) (f : Flight) (pre post : List (BitVec 8 × List F64)) :
    afterCommit before f [] pre post = before ++ { f with pending := pre ++ post }.unfinished := by
  simp only [afterCommit, Flight.unfinished]
  split <;> simp

/-- The schedule is `order`, one commit step for each entry that the agent's record `f`, the last one, still has; every channel is there
and its `TOTAL` has room. -/
structure AwaitsCommits (s : State) (agent : Nat) (before : List Flight) (f : Flight) (order : List (BitVec 8)) : Prop where
  ready : s.ready = true
  schedule : s.inbox = order.map (Event.commit agent)
  records : s.flights = before ++ f.unfinished
  others : ∀ g ∈ before, g.agent ≠ agent
  issuer : f.agent = agent
  once : order.Nodup
  perm : order.Perm (f.pending.map Prod.fst)
  room : ∀ p ∈ f.pending, ∃ ch, s.chan? p.1 = some ch ∧ ch.ring.total.toNat + p.2.length < 2 ^ 64

section Commits

variable {s : State} {agent : Nat} {before : List Flight} {f : Flight} {c : BitVec 8} {order : List (BitVec 8)}

/-- A channel that the schedule does not bring again has no entry left. -/
theorem fst_ne_of_perm {pending : List (BitVec 8 × List F64)} (perm : order.Perm (pending.map Prod.fst)) (absent : c ∉ order) :
    ∀ p ∈ pending, p.1 ≠ c :=
  fun _ hp same => absent (perm.mem_iff.mpr (same ▸ List.mem_map_of_mem hp))

/-- The next commit step's entry, the first and only one for its channel, and what the schedule brings for the others. -/
theorem AwaitsCommits.exists_pendingAt (w : AwaitsCommits s agent before f (c :: order)) :
    ∃ pre values post, PendingAt s.flights before f [] agent pre c values post ∧ order.Perm ((pre ++ post).map Prod.fst) := by
  obtain ⟨⟨_, values⟩, mem, rfl⟩ := List.mem_map.mp (w.perm.mem_iff.mp List.mem_cons_self)
  obtain ⟨pre, post, entry⟩ := List.append_of_mem mem
  have perm : order.Perm ((pre ++ post).map Prod.fst) := by
    refine List.Perm.cons_inv (w.perm.trans ?_)
    rw [entry]
    exact List.perm_middle.map Prod.fst
  refine ⟨pre, values, post, ⟨?_, w.others, w.issuer, entry, fun p hp => ?_⟩, perm⟩
  · rw [w.records, Flight.unfinished_of_ne_nil (List.ne_nil_of_mem mem)]
  · obtain ⟨absent, -⟩ := List.nodup_cons.mp w.once
    exact fst_ne_of_perm perm absent p (List.mem_append_left post hp)

/-- One commit step: the array of its channel is appended, and the rest of the schedule brings the rest of the record. -/
theorem AwaitsCommits.step (w : AwaitsCommits s agent before f (c :: order)) :
    ∃ pre values post ch, f.pending = pre ++ (c, values) :: post ∧ s.chan? c = some ch ∧
      let u := { s.setChan c { ch with ring := values.foldl (Ring.add (s.cap c)) ch.ring } with
        inbox := order.map (Event.commit agent)
        flights := before ++ { f with pending := pre ++ post }.unfinished }
      Machine.step s = .next u ∧ AwaitsCommits u agent before { f with pending := pre ++ post } order := by
  obtain ⟨pre, values, post, pending, perm⟩ := w.exists_pendingAt
  obtain ⟨absent, once⟩ := List.nodup_cons.mp w.once
  obtain ⟨ch, there, room⟩ := w.room (c, values) (by simp [pending.entry])
  refine ⟨pre, values, post, ch, pending.entry, there, ?_, ?_⟩
  · rw [step_of_commit w.schedule,
      commitStep_of_pendingAt (s := { s with inbox := order.map (Event.commit agent) }) w.ready there pending room,
      afterCommit_nil]
    rfl
  · refine ⟨w.ready, rfl, rfl, w.others, w.issuer, once, perm, fun p hp => ?_⟩
    have other := fst_ne_of_perm perm absent p hp
    obtain ⟨old, hold, oldRoom⟩ := w.room p (by rw [pending.entry]; exact List.perm_middle.mem_iff.mpr (.tail _ hp))
    exact ⟨old, (State.chan?_setChan_of_ne other).trans hold, oldRoom⟩

theorem runSteps_succ_of_step {t : State} (n : Nat) (h : Machine.step s = .next t) : runSteps (n + 1) s = runSteps n t := by
  simp only [runSteps, h]

/-- All the commit steps: every entry's array is appended to its channel, once, and nothing else is written. -/
theorem AwaitsCommits.runSteps (w : AwaitsCommits s agent before f order) :
    ∃ t, Machine.runSteps order.length s = .next t ∧ t = { s with inbox := [], chans := t.chans, flights := before } ∧
      (∀ p ∈ f.pending, ∀ ch, s.chan? p.1 = some ch →
        t.chan? p.1 = some { ch with ring := p.2.foldl (Ring.add (s.cap p.1)) ch.ring }) ∧
      ∀ d, d ∉ order → t.chan? d = s.chan? d := by
  induction order generalizing s f with
  | nil =>
      have done : f.pending = [] := by simpa using w.perm.symm.eq_nil
      have records : s.flights = before := by simpa [Flight.unfinished, done] using w.records
      refine ⟨s, rfl, ?_, by simp [done], fun _ _ => rfl⟩
      have noEvent : s.inbox = [] := w.schedule
      rw [← records, ← noEvent]
  | cons c order ih =>
      obtain ⟨pre, values, post, ch, entry, there, stepped, left⟩ := w.step
      obtain ⟨absent, -⟩ := List.nodup_cons.mp w.once
      obtain ⟨t, run, frame, appended, untouched⟩ := ih left
      refine ⟨t, (runSteps_succ_of_step order.length stepped).trans run, frame, fun p hp old hold => ?_, fun d hd => ?_⟩
      · rw [entry] at hp
        rcases List.mem_cons.mp (List.perm_middle.mem_iff.mp hp) with rfl | hp
        · obtain rfl : ch = old := Option.some.inj (there.symm.trans hold)
          exact (untouched _ absent).trans (State.chan?_setChan_self there)
        · have other := fst_ne_of_perm left.perm absent p hp
          exact appended p hp old ((State.chan?_setChan_of_ne other).trans hold)
      · obtain ⟨hdc, hd⟩ := List.ne_and_not_mem_of_not_mem_cons hd
        exact (untouched d hd).trans (State.chan?_setChan_of_ne (s := s) hdc)

end Commits

/-- The channels of the entries a block leaves, in order. -/
theorem map_fst_indexed (outs : List (List F64)) :
    (indexed outs).map Prod.fst = (List.range outs.length).map (BitVec.ofNat 8) := by
  refine List.ext_getElem (by simp [indexed]) fun i h1 h2 => ?_
  simp [indexed]

/-- What step 0 writes: the channels, the record with one array for each, and the result port. -/
theorem exists_record_of_exec_chProcessBlock {s t : State} {samples : List (List F64)}
    (h : exec (.chProcessBlock samples) s = .next t) :
    s.ready = true ∧ ∃ outs : List (List F64), outs.length = t.chans.length ∧
      t = { s with chans := t.chans, flights := s.flights ++ [⟨s.turn, s.snapshot, indexed outs⟩], reply := .none } := by
  cases effect_of_exec h with
  | chProcessBlock ready => exact ⟨ready, _, by simp only [List.length_map], rfl⟩
  | channel _ _ effect => cases effect

/-- Step 0 of a well-formed state leaves a record that awaits the commits of its channels in any order (42_channel_stage.md R217). -/
theorem exists_awaitsCommits {s s1 : State} {agent : Nat} {samples : List (List F64)} {order : List (BitVec 8)}
    (wf : s.wf = true) (others : ∀ f ∈ s.flights, f.agent ≠ agent)
    (h : exec (.chProcessBlock samples) { s with turn := agent } = .next s1)
    (perm : order.Perm ((List.range s.cr.nch).map (BitVec.ofNat 8)))
    (room : ∀ f c ch values, s1.flights.getLast? = some f → (c, values) ∈ f.pending → s1.chan? c = some ch →
      ch.ring.total.toNat + values.length < 2 ^ 64) :
    ∃ f, s1.flights = s.flights ++ [f] ∧ f.pending.map Prod.fst = (List.range s.cr.nch).map (BitVec.ofNat 8) ∧
      AwaitsCommits { s1 with inbox := order.map (Event.commit agent) } agent s.flights f order := by
  have wf1 : s1.wf = true := (effect_of_exec h).wf ((s.wf_schedule s.inbox agent).trans wf) fun _ => others
  obtain ⟨ready, outs, count, hs1⟩ := exists_record_of_exec_chProcessBlock h
  have ready1 : s1.ready = true := by rw [hs1]; exact ready
  have cr : s1.cr = s.cr := by rw [hs1]
  have records : s1.flights = s.flights ++ [⟨agent, State.snapshot { s with turn := agent }, indexed outs⟩] := by rw [hs1]
  obtain ⟨-, w⟩ := State.wf_iff.mp wf1
  have w := w ready1
  obtain ⟨-, nonempty, nodup, entries⟩ := Flight.wf_iff.mp (w.records _ (records ▸ List.mem_concat_self))
  have channels : (indexed outs).map Prod.fst = (List.range s.cr.nch).map (BitVec.ofNat 8) := by
    rw [map_fst_indexed, count, w.count, cr]
  refine ⟨_, records, channels, ready1, rfl, ?_, others, rfl, ?_, ?_, fun p hp => ?_⟩
  · rw [records, Flight.unfinished_of_ne_nil nonempty]
  · exact perm.nodup_iff.mpr (channels ▸ nodup)
  · exact channels ▸ perm
  · obtain ⟨hn, -⟩ := entries p hp
    have there := State.chan?_eq_some.mpr ⟨hn, List.getElem?_eq_getElem (w.count ▸ hn)⟩
    exact ⟨_, there, room _ _ _ _ (by rw [records, List.getLast?_concat]) hp there⟩

/-- Settles O41: the commit steps that the record of step 0 awaits, all of them. -/
theorem blockCommitsInAnyOrder : Obligations.BlockCommitsInAnyOrder := by
  unfold Obligations.BlockCommitsInAnyOrder
  intro s s1 agent samples order wf _ others h perm room
  obtain ⟨f, records, channels, awaits⟩ := exists_awaitsCommits wf others h perm room
  obtain ⟨t, run, frame, appended, -⟩ := awaits.runSteps
  refine ⟨t, ?_, frame, f, records, awaits.issuer, fun c ch there => ?_⟩
  · rwa [show order.length = s.cr.nch by simpa using perm.length_eq] at run
  · obtain ⟨-, cr, -⟩ := (effect_of_exec h).frame rfl
    obtain ⟨hn, -⟩ := State.chan?_eq_some.mp there
    have channel : (f.pending.map Prod.fst)[c.toNat]? = some c := by
      rw [channels, List.getElem?_map, List.getElem?_range (cr ▸ hn), Option.map_some, BitVec.ofNat_toNat, BitVec.setWidth_eq]
    obtain ⟨⟨_, values⟩, entry, rfl⟩ := Option.map_eq_some_iff.mp (List.getElem?_map ▸ channel)
    exact ⟨values, entry, appended _ (List.mem_of_getElem? entry) ch there⟩

end Sys2Proof.Machine
end

section
/-! PROOFS. DF_APPLY kind by kind (43_digitalfilter.md R231 to R241): the operation and the variant row of its base run `dfStep` of the
filter selected, and `dfStep` of each kind is its rule. The median stands below. -/

namespace Sys2Proof

@[simp] theorem F64.sign_abs (x : F64) : (F64.abs x).sign = false := by cases x <;> rfl
@[simp] theorem F64.magBits_abs (x : F64) : (F64.abs x).magBits = x.magBits := by cases x <;> rfl

/-- The absolute value clears bit 63 and no other. -/
theorem F64.toBits_abs (x : F64) : (F64.abs x).toBits = x.toBits &&& 0x7FFFFFFFFFFFFFFF#64 := by
  have hmask : (0x7FFFFFFFFFFFFFFF#64).toNat = 2 ^ 63 - 1 := rfl
  have hmag := x.magBits_lt
  refine BitVec.eq_of_toNat_eq ?_
  rw [BitVec.toNat_and, hmask, Nat.and_two_pow_sub_one_eq_mod, F64.toNat_toBits, F64.toNat_toBits, F64.sign_abs, F64.magBits_abs,
    Bool.toNat_false]
  omega

end Sys2Proof

namespace Sys2Proof.Machine

section Rows

variable {s : State} {c : BitVec 8} {ch : Channel} {f : DFilter} {x : F64} {row i : Instr}

/-- DF_APPLY and a variant row of it take the sample through the filter that is selected. -/
theorem exec_dfApply_row (hrow : row.base = .dfApply c x) (ready : s.ready = true) (there : s.chan? c = some ch)
    (selected : ch.filter = f) (hi : i ∈ [Instr.dfApply c x, row]) :
    exec i s = .next ((s.setFilter c ch (dfStep f x).1).answer (.sample (dfStep f x).2)) := by
  have hbase : i.base = .dfApply c x := by
    rcases List.mem_pair.mp hi with rfl | rfl
    · rfl
    · exact hrow
  rw [exec_eq_exec_base, hbase, exec_dfApply ready there, selected]

/-- A filter that the sample leaves as it is leaves the state. -/
theorem exec_dfApply_row_of_pointwise (hrow : row.base = .dfApply c x) (ready : s.ready = true) (there : s.chan? c = some ch)
    (selected : ch.filter = f) (pointwise : (dfStep f x).1 = f) (hi : i ∈ [Instr.dfApply c x, row]) :
    exec i s = .next { s with reply := .sample (dfStep f x).2 } := by
  rw [exec_dfApply_row hrow ready there selected hi, pointwise, ← selected, State.setFilter, State.setChan_self there]
  rfl

end Rows

/-- Settles O44: the three kinds without registers. -/
theorem pointwiseFilters : Obligations.PointwiseFilters := by
  unfold Obligations.PointwiseFilters
  refine ⟨F64.toBits_abs, fun s c ch x ready there => ⟨?_, ?_, ?_⟩⟩
  all_goals exact fun selected i hi => exec_dfApply_row_of_pointwise rfl ready there selected rfl hi

/-- Settles O45: `lowPassValue` is the formula of both kinds. -/
theorem lowAndHighPass : Obligations.LowAndHighPass := by
  unfold Obligations.LowAndHighPass
  intro s c ch x alpha yLp ready there low
  constructor
  all_goals exact fun selected i hi => exec_dfApply_row rfl ready there selected hi

theorem readWindow_of_getElem? {win : List (Option F64)} {i : Nat} {v : F64} (h : win[i]? = some (some v)) :
    readWindow win i = v := by
  simp [readWindow, h]

/-- A full window drops the value it overwrites from the sum (R235). -/
theorem mavgStep_of_full {r : MovingAverage} {old : F64} (full : r.n = r.w) (held : r.win[r.idx]? = some (some old)) (x : F64) :
    mavgStep r x =
      ({ r with
          win := r.win.set r.idx (some x)
          idx := (r.idx + 1) % r.w
          sum := F64.add (F64.sub r.sum old) x },
        F64.div (F64.add (F64.sub r.sum old) x) (F64.ofNat r.n)) := by
  simp only [mavgStep, if_pos full, readWindow_of_getElem? held]

/-- A window that is not full counts the sample (R235). -/
theorem mavgStep_of_not_full {r : MovingAverage} (filling : r.n ≠ r.w) (x : F64) :
    mavgStep r x =
      ({ r with
          win := r.win.set r.idx (some x)
          idx := (r.idx + 1) % r.w
          n := r.n + 1
          sum := F64.add r.sum x },
        F64.div (F64.add r.sum x) (F64.ofNat (r.n + 1))) := by
  simp only [mavgStep, if_neg filling]

/-- Settles O46: the window full and before. -/
theorem movingAverageApplies : Obligations.MovingAverageApplies := by
  unfold Obligations.MovingAverageApplies
  intro s c ch r x ready there selected i hi
  have run := exec_dfApply_row rfl ready there selected hi
  simp only [dfStep] at run
  refine ⟨fun old full held => ?_, fun filling => ?_⟩
  · rw [run, mavgStep_of_full full held]
    rfl
  · rw [run, mavgStep_of_not_full filling]
    rfl

/-- Settles O48: `notchValue` and `biquadValue` are the rules' expressions. -/
theorem recursiveFilters : Obligations.RecursiveFilters := by
  unfold Obligations.RecursiveFilters
  constructor
  all_goals
    intro s c ch r x ready there selected y i hi
    exact exec_dfApply_row rfl ready there selected hi

/-- The anchors and the counter of the tick of R241, register by register. -/
theorem interpTick_eq (r : Interp) (x : F64) :
    interpTick r x =
      { ndec := r.ndec
        k := if r.primed = false then 0 else r.k
        a0 := if r.primed = false then x else if r.k = 0 then r.a1 else r.a0
        a1 := if r.primed = false then x else if r.k = 0 then x else r.a1
        primed := true } := by
  obtain ⟨ndec, k, a0, a1, primed⟩ := r
  cases primed with
  | false => rfl
  | true =>
      simp only [interpTick, Bool.true_eq_false, if_false]
      split <;> rfl

/-- Settles O49: the tick before the output. -/
theorem interpolatorApplies : Obligations.InterpolatorApplies := by
  unfold Obligations.InterpolatorApplies
  intro s c ch r x ready there selected k a0 a1 i hi
  have run := exec_dfApply_row rfl ready there selected hi
  simp only [dfStep, interpStep, interpTick_eq] at run
  exact run

end Sys2Proof.Machine
end

section
/-! PROOFS. Selecting, resetting and reading a filter (43_digitalfilter.md R242 to R246, R250). -/

namespace Sys2Proof.Machine

section Operations

variable {s : State} {c : BitVec 8} {ch : Channel} {kind : BitVec 4} {ps : List FParam}

theorem exec_dfReset (ready : s.ready = true) (there : s.chan? c = some ch) :
    exec (.dfReset c) s = .next ((s.setFilter c ch ch.filter.reset).answer .none) := onChannel_of_chan ready there _

theorem exec_dfKind (ready : s.ready = true) (there : s.chan? c = some ch) :
    exec (.dfKind c) s = .next (s.answer (.kind ch.filter.kind)) := onChannel_of_chan ready there _

theorem exec_dfParams (ready : s.ready = true) (there : s.chan? c = some ch) :
    exec (.dfParams c) s = .next (s.answer (.params ch.filter.params)) := onChannel_of_chan ready there _

theorem exec_dfSelect {f : DFilter} (ready : s.ready = true) (there : s.chan? c = some ch)
    (made : createFilter s.cr.wMax kind ps = some f) :
    exec (.dfSelect c kind ps) s = .next ((s.setFilter c ch f).answer .none) := by
  simp only [exec, execDfSelect, onChannel_of_chan ready there, made]

theorem exec_dfSelect_of_none (ready : s.ready = true) (there : s.chan? c = some ch)
    (illegal : createFilter s.cr.wMax kind ps = none) : exec (.dfSelect c kind ps) s = .refused .badFilter := by
  simp only [exec, execDfSelect, onChannel_of_chan ready there, illegal]

/-- A selection that completes stores a filter made from its operands. -/
theorem exists_createFilter_of_exec_dfSelect {t : State} (ready : s.ready = true) (there : s.chan? c = some ch)
    (h : exec (.dfSelect c kind ps) s = .next t) :
    ∃ f, createFilter s.cr.wMax kind ps = some f ∧ t = (s.setFilter c ch f).answer .none := by
  cases made : createFilter s.cr.wMax kind ps with
  | none =>
      rw [exec_dfSelect_of_none ready there made] at h
      cases h
  | some f =>
      rw [exec_dfSelect ready there made] at h
      cases h
      exact ⟨f, rfl, rfl⟩

end Operations

/-- Settles O51: `DFilter.reset` kind by kind. -/
theorem dfResetResets : Obligations.DfResetResets := by
  unfold Obligations.DfResetResets
  refine fun s c ch => ⟨rfl, fun ready there => ⟨ch.filter.reset, exec_dfReset ready there, ?_⟩⟩
  obtain ⟨kind, params⟩ := ch.filter.reset_settings
  refine ⟨kind, params, ?_, ?_, ?_, ?_, ?_, ?_, ?_⟩
  all_goals
    intro r selected
    rw [selected]
    rfl

/-- Settles O52: a filter that DF_SELECT made has the kind and the parameters asked for. -/
theorem kindAndParamsReadBack : Obligations.KindAndParamsReadBack := by
  unfold Obligations.KindAndParamsReadBack
  refine ⟨⟨rfl, rfl, rfl, rfl, rfl, rfl⟩, fun r => ⟨rfl, rfl, rfl, rfl⟩, fun r => ⟨rfl, rfl⟩, fun r => ⟨rfl, rfl⟩,
    fun r => ⟨rfl, rfl⟩, fun r => ⟨rfl, rfl⟩, fun r => ⟨rfl, rfl⟩, fun s c ch => ⟨rfl, rfl, fun ready there => ?_⟩⟩
  refine ⟨exec_dfKind ready there, exec_dfParams ready there, fun kind ps t h => ?_⟩
  obtain ⟨f, made, rfl⟩ := exists_createFilter_of_exec_dfSelect ready there h
  obtain ⟨rfl, rfl, -⟩ := createFilter_wf made
  have stored : ((s.setFilter c ch f).answer .none).chan? c = some { ch with filter := f } := State.chan?_setChan_self there
  exact ⟨exec_dfKind (s := (s.setFilter c ch f).answer .none) ready stored,
    exec_dfParams (s := (s.setFilter c ch f).answer .none) ready stored⟩

/-- The legal parameters of each kind (R246). -/
def LegalParams (wMax : Nat) (kind : BitVec 4) (ps : List FParam) : Prop :=
  (kind.toNat ∈ [0, 7, 8] ∧ ps = []) ∨
  (kind.toNat ∈ [1, 2] ∧ ∃ alpha, ps = [.real alpha] ∧ alpha.isFinite = true) ∨
  (kind.toNat ∈ [3, 4] ∧ ∃ w : Int, ps = [.int w] ∧ 1 ≤ w ∧ w ≤ wMax) ∨
  (kind.toNat = 5 ∧ ∃ f0 fs bw, ps = [.real f0, .real fs, .real bw] ∧ f0.isFinite = true ∧ fs.isFinite = true ∧
    bw.isFinite = true ∧ F64.lt .zero fs = true) ∨
  (kind.toNat = 6 ∧ ∃ b0 b1 b2 a1 a2, ps = [.real b0, .real b1, .real b2, .real a1, .real a2] ∧ b0.isFinite = true ∧
    b1.isFinite = true ∧ b2.isFinite = true ∧ a1.isFinite = true ∧ a2.isFinite = true) ∨
  (kind.toNat = 9 ∧ ∃ n : Int, ps = [.int n] ∧ 1 ≤ n)

theorem filterLegal_iff {wMax : Nat} {kind : BitVec 4} {ps : List FParam} :
    filterLegal wMax kind ps = true ↔ LegalParams wMax kind ps := by
  unfold LegalParams
  constructor
  · intro h
    unfold filterLegal at h
    split at h <;> simp_all
  · simp only [List.mem_cons, List.not_mem_nil, or_false]
    rintro (⟨hk | hk | hk, rfl⟩ | ⟨hk | hk, alpha, rfl, h⟩ | ⟨hk | hk, w, rfl, h⟩ | ⟨hk, f0, fs, bw, rfl, h⟩ |
      ⟨hk, b0, b1, b2, a1, a2, rfl, h⟩ | ⟨hk, n, rfl, h⟩)
    all_goals simp [filterLegal, *]

/-- Every legal list makes a filter. -/
theorem exists_createFilter {wMax : Nat} {kind : BitVec 4} {ps : List FParam} (legal : filterLegal wMax kind ps = true) :
    ∃ f, createFilter wMax kind ps = some f := by
  refine Option.isSome_iff_exists.mp ?_
  unfold createFilter
  rw [if_pos legal]
  have params := filterLegal_iff.mp legal
  simp only [LegalParams, List.mem_cons, List.not_mem_nil, or_false] at params
  obtain ⟨hk | hk | hk, rfl⟩ | ⟨hk | hk, _, rfl, -⟩ | ⟨hk | hk, _, rfl, -⟩ | ⟨hk, _, _, _, rfl, -⟩ | ⟨hk, _, _, _, _, _, rfl, -⟩ |
    ⟨hk, _, rfl, -⟩ := params
  all_goals simp only [hk, Option.isSome_some]

/-- A filter made by DF_SELECT stands at reset, and a notch has the products of R250 for coefficients. -/
theorem createFilter_registers {wMax : Nat} {kind : BitVec 4} {ps : List FParam} {f : DFilter}
    (made : createFilter wMax kind ps = some f) :
    f.reset = f ∧ ∀ r, f = .notch r →
      r.c1 = F64.mul .two (Config.notchCos r.f0 r.fs r.bw) ∧
      r.c2 = F64.mul (Config.notchRadius r.f0 r.fs r.bw) r.c1 ∧
      r.c3 = F64.mul (Config.notchRadius r.f0 r.fs r.bw) (Config.notchRadius r.f0 r.fs r.bw) := by
  unfold createFilter at made
  split at made
  · -- one case per kind code, in order: the notch is the sixth, and the lists of no kind come last
    split at made
    case h_6 =>
      cases made
      exact ⟨rfl, by rintro r ⟨⟩; exact ⟨rfl, rfl, rfl⟩⟩
    case h_11 => cases made
    all_goals cases made; exact ⟨rfl, fun r hr => by cases hr⟩
  · cases made

/-- Settles O53: the legal lists are those that make a filter. -/
theorem dfSelectInstalls : Obligations.DfSelectInstalls := by
  unfold Obligations.DfSelectInstalls
  intro s c ch kind ps legal
  have hlegal : filterLegal s.cr.wMax kind ps = true ↔ legal := filterLegal_iff
  refine ⟨rfl, fun ready there => ⟨fun illegal => ?_, fun hl => ?_⟩⟩
  · exact exec_dfSelect_of_none ready there (if_neg (mt hlegal.mp illegal))
  · obtain ⟨f, made⟩ := exists_createFilter (hlegal.mpr hl)
    obtain ⟨hkind, hparams, -⟩ := createFilter_wf made
    obtain ⟨hreset, hnotch⟩ := createFilter_registers made
    exact ⟨f, exec_dfSelect ready there made, hkind, hparams, hreset, hnotch⟩

end Sys2Proof.Machine
end

section
/-! PROOFS. DF_APPLY of the median (43_digitalfilter.md R236). The numeric order does not tell the two zeros apart, so the ascending
orders of a window differ at most in the signs of zeros, and so do the medians read from them. -/

namespace Sys2Proof

/-! ### Numbers -/

/-- Equal, or two zeros: the same number. -/
def F64.SameNumber (x y : F64) : Prop := x = y ∨ (x.isZero = true ∧ y.isZero = true)

theorem F64.SameNumber.isZero_eq {x y : F64} (h : F64.SameNumber x y) : x.isZero = y.isZero := by
  rcases h with rfl | ⟨hx, hy⟩
  · rfl
  · rw [hx, hy]

theorem F64.SameNumber.eq_of_isZero_eq_false {x y : F64} (h : F64.SameNumber x y) (hx : x.isZero = false) : x = y :=
  h.resolve_right fun ⟨hx', _⟩ => by rw [hx] at hx'; cases hx'

theorem F64.SameNumber.trans {x y z : F64} (h : F64.SameNumber x y) (h' : F64.SameNumber y z) : F64.SameNumber x z := by
  rcases h with rfl | ⟨hx, hy⟩
  · exact h'
  · exact .inr ⟨hx, h'.isZero_eq ▸ hy⟩

/-- A sample that is a zero of a sign, by its two fields. -/
theorem F64.eq_signedZero_iff {x : F64} {neg : Bool} : x = .signedZero neg ↔ x.isZero = true ∧ x.sign = neg := by
  constructor
  · rintro rfl
    exact ⟨rfl, rfl⟩
  · rintro ⟨hz, rfl⟩
    cases x with
    | finite neg m => exact congrArg (F64.finite neg) (Fin.ext (by simpa [F64.isZero] using hz))
    | inf neg | nan v => cases hz

/-- A number's place in the numeric order is its signed magnitude. -/
theorem F64.orderKey_eq {x : F64} (h : x.isNaN = false) :
    x.orderKey = if x.sign = true then -(x.magBits : Int) else x.magBits := by
  cases x with
  | finite neg m | inf neg => rfl
  | nan v => cases h

/-- Sign and magnitude bits determine a number. -/
theorem F64.eq_of_magBits_eq {x y : F64} (hx : x.isNaN = false) (hy : y.isNaN = false) (sign : x.sign = y.sign)
    (mag : x.magBits = y.magBits) : x = y := by
  match x, y with
  | .nan _, _ => cases hx
  | _, .nan _ => cases hy
  | .inf a, .inf b => exact congrArg F64.inf sign
  | .inf a, .finite b n => exact absurd mag.symm n.isLt.ne
  | .finite a m, .inf b => exact absurd mag m.isLt.ne
  | .finite a m, .finite b n => exact congrArg₂ F64.finite sign (Fin.ext mag)

theorem F64.isZero_of_magBits_eq_zero {x : F64} (h : x.magBits = 0) : x.isZero = true := by
  cases x with
  | finite neg m => exact beq_iff_eq.mpr h
  | inf neg => cases h
  | nan v => simp [F64.magBits] at h

/-- Two samples at one place of the numeric order are the same number. -/
theorem F64.sameNumber_of_orderKey_eq {x y : F64} (hx : x.isNaN = false) (hy : y.isNaN = false)
    (h : x.orderKey = y.orderKey) : F64.SameNumber x y := by
  rw [F64.orderKey_eq hx, F64.orderKey_eq hy] at h
  by_cases sign : x.sign = y.sign
  · refine .inl (F64.eq_of_magBits_eq hx hy sign ?_)
    rw [sign] at h
    split at h <;> omega
  · obtain ⟨hx0, hy0⟩ : x.magBits = 0 ∧ y.magBits = 0 := by
      rw [Bool.eq_not.mpr sign] at h
      cases hsign : y.sign <;>
        simp only [hsign, Bool.not_true, Bool.not_false, Bool.false_eq_true, if_true, if_false] at h <;> omega
    exact .inr ⟨F64.isZero_of_magBits_eq_zero hx0, F64.isZero_of_magBits_eq_zero hy0⟩

theorem F64.lt_eq_false_iff {x y : F64} (hx : x.isNaN = false) (hy : y.isNaN = false) :
    F64.lt y x = false ↔ x.orderKey ≤ y.orderKey := by
  simp [F64.lt, hx, hy]

/-- The zero that `ofUnits` gives an exact zero is its only use of the sign. -/
theorem F64.ofUnits_sameNumber (a b : Bool) (u : Int) : F64.SameNumber (.ofUnits a u) (.ofUnits b u) := by
  unfold F64.ofUnits
  split
  · exact .inr ⟨rfl, rfl⟩
  · exact .inl rfl

/-- A zero summand's sign matters only to a zero sum. -/
theorem F64.add_signedZero_sameNumber (a b : Bool) {y : F64} (hy : y.isNaN = false) :
    F64.SameNumber (F64.add (.signedZero a) y) (F64.add (.signedZero b) y) ∧
      F64.SameNumber (F64.add y (.signedZero a)) (F64.add y (.signedZero b)) := by
  have hu (neg : Bool) : F64.signedUnits neg (0 : Fin infMag).val = 0 := F64.signedUnits_eq_zero.mpr rfl
  cases y with
  | finite neg n =>
      simp only [F64.signedZero, F64.add_finite, hu]
      exact ⟨F64.ofUnits_sameNumber .., F64.ofUnits_sameNumber ..⟩
  | inf neg => exact ⟨.inl rfl, .inl rfl⟩
  | nan v => cases hy

theorem F64.SameNumber.add {x x' y y' : F64} (hx : F64.SameNumber x x') (hy : F64.SameNumber y y') (nx : x'.isNaN = false)
    (ny : y.isNaN = false) : F64.SameNumber (F64.add x y) (F64.add x' y') := by
  have left : F64.SameNumber (F64.add x y) (F64.add x' y) := by
    rcases hx with rfl | ⟨hz, hz'⟩
    · exact .inl rfl
    · rw [F64.eq_signedZero_iff.mpr ⟨hz, rfl⟩, F64.eq_signedZero_iff.mpr ⟨hz', rfl⟩]
      exact (F64.add_signedZero_sameNumber _ _ ny).1
  have right : F64.SameNumber (F64.add x' y) (F64.add x' y') := by
    rcases hy with rfl | ⟨hz, hz'⟩
    · exact .inl rfl
    · rw [F64.eq_signedZero_iff.mpr ⟨hz, rfl⟩, F64.eq_signedZero_iff.mpr ⟨hz', rfl⟩]
      exact (F64.add_signedZero_sameNumber _ _ nx).2
  exact left.trans right

theorem F64.div_signedZero_two (neg : Bool) : F64.div (.signedZero neg) .two = .signedZero neg := by
  cases neg <;> decide +kernel

theorem F64.SameNumber.div_two {x y : F64} (h : F64.SameNumber x y) : F64.SameNumber (F64.div x .two) (F64.div y .two) := by
  rcases h with rfl | ⟨hx, hy⟩
  · exact .inl rfl
  · rw [F64.eq_signedZero_iff.mpr ⟨hx, rfl⟩, F64.eq_signedZero_iff.mpr ⟨hy, rfl⟩, F64.div_signedZero_two, F64.div_signedZero_two]
    exact .inr ⟨rfl, rfl⟩

end Sys2Proof

namespace Sys2Proof.Machine

/-! ### Ascending orders -/

section Ascending

variable {v vs : List F64}

/-- The model's sort is insertion sort by the place in the numeric order. -/
theorem insertAscending_eq (x : F64) (hx : x.isNaN = false) (clean : ∀ a ∈ vs, a.isNaN = false) :
    insertAscending x vs = vs.orderedInsert (F64.orderKey ⁻¹'o (· ≤ ·)) x := by
  induction vs with
  | nil => rfl
  | cons y rest ih =>
      obtain ⟨hy, hrest⟩ := List.forall_mem_cons.mp clean
      simp only [insertAscending, List.orderedInsert_cons, Order.Preimage, ← F64.lt_eq_false_iff hx hy, ih hrest]
      cases F64.lt y x <;> rfl

theorem sortAscending_eq (clean : ∀ a ∈ vs, a.isNaN = false) :
    sortAscending vs = vs.insertionSort (F64.orderKey ⁻¹'o (· ≤ ·)) := by
  induction vs with
  | nil => rfl
  | cons x rest ih =>
      obtain ⟨hx, hrest⟩ := List.forall_mem_cons.mp clean
      rw [sortAscending, ih hrest, List.insertionSort_cons]
      exact insertAscending_eq x hx fun a ha => hrest a ((List.mem_insertionSort _).mp ha)

theorem sortAscending_perm (clean : ∀ a ∈ vs, a.isNaN = false) : (sortAscending vs).Perm vs := by
  rw [sortAscending_eq clean]
  exact List.perm_insertionSort _ vs

theorem sortAscending_pairwise (clean : ∀ a ∈ vs, a.isNaN = false) :
    (sortAscending vs).Pairwise (fun a b => a.orderKey ≤ b.orderKey) := by
  rw [sortAscending_eq clean]
  exact List.pairwise_insertionSort (F64.orderKey ⁻¹'o (· ≤ ·)) vs

/-- An ascending order of the same samples has the sorted keys. -/
theorem map_orderKey_eq (perm : v.Perm vs) (ascending : v.Pairwise (fun a b => a.orderKey ≤ b.orderKey))
    (clean : ∀ a ∈ vs, a.isNaN = false) : v.map F64.orderKey = (sortAscending vs).map F64.orderKey :=
  List.Perm.eq_of_pairwise' (List.pairwise_map.mpr ascending) (List.pairwise_map.mpr (sortAscending_pairwise clean))
    ((perm.trans (sortAscending_perm clean).symm).map _)

theorem mixedZeros_iff : mixedZeros vs = true ↔ F64.signedZero true ∈ vs ∧ F64.signedZero false ∈ vs := by
  have hzero (neg : Bool) : F64.signedZero neg ∈ vs ↔ ∃ a ∈ vs, a.isZero = true ∧ a.sign = neg := by
    simp only [← F64.eq_signedZero_iff, exists_eq_right]
  simp only [mixedZeros, hzero, Bool.and_eq_true, List.any_eq_true, Bool.not_eq_true']

/-- Without zeros of both signs the order leaves no choice. -/
theorem eq_of_orderKey_eq_of_unmixed (unmixed : mixedZeros vs = false) (clean : ∀ a ∈ vs, a.isNaN = false) {a b : F64}
    (ha : a ∈ vs) (hb : b ∈ vs) (key : a.orderKey = b.orderKey) : a = b := by
  rcases F64.sameNumber_of_orderKey_eq (clean a ha) (clean b hb) key with rfl | ⟨hza, hzb⟩
  · rfl
  · have hza : a = .signedZero a.sign := F64.eq_signedZero_iff.mpr ⟨hza, rfl⟩
    have hzb : b = .signedZero b.sign := F64.eq_signedZero_iff.mpr ⟨hzb, rfl⟩
    rw [hza] at ha ⊢
    rw [hzb] at hb ⊢
    refine congrArg F64.signedZero (Decidable.not_not.mp fun hne => Bool.eq_false_iff.mp unmixed (mixedZeros_iff.mpr ?_))
    rw [Bool.eq_not.mpr hne] at ha
    cases hsign : b.sign
    · rw [hsign] at ha hb; exact ⟨ha, hb⟩
    · rw [hsign] at ha hb; exact ⟨hb, ha⟩

theorem eq_sortAscending_of_unmixed (unmixed : mixedZeros vs = false) (perm : v.Perm vs)
    (ascending : v.Pairwise (fun a b => a.orderKey ≤ b.orderKey)) (clean : ∀ a ∈ vs, a.isNaN = false) : v = sortAscending vs :=
  have sorted := sortAscending_perm clean
  List.Perm.eq_of_pairwise
    (fun _ _ ha hb hab hba =>
      eq_of_orderKey_eq_of_unmixed unmixed clean (perm.subset ha) (sorted.subset hb) (le_antisymm hab hba))
    ascending (sortAscending_pairwise clean) (perm.trans sorted.symm)

end Ascending

/-! ### The median -/

/-- The middle of a list, or the mean of its two middle values: the median's formula (R236). -/
def middleOf (v : List F64) : F64 :=
  if v.length % 2 = 1 then v.getD (v.length / 2) .zero
  else F64.div (F64.add (v.getD (v.length / 2 - 1) .zero) (v.getD (v.length / 2) .zero)) .two

theorem middleOf_eq {v : List F64} {low high : F64} (hhigh : v[v.length / 2]? = some high)
    (hlow : v[(v.length - 1) / 2]? = some low) :
    middleOf v = if v.length % 2 = 1 then high else F64.div (F64.add low high) .two := by
  unfold middleOf
  split
  · rw [List.getD, hhigh, Option.getD_some]
  · next even =>
    obtain ⟨nonempty, -⟩ := List.getElem?_eq_some_iff.mp hhigh
    have hindex : v.length / 2 - 1 = (v.length - 1) / 2 := by omega
    rw [hindex, List.getD, List.getD, hlow, hhigh, Option.getD_some, Option.getD_some]

theorem isNaN_getD {v : List F64} (clean : ∀ a ∈ v, a.isNaN = false) (i : Nat) : (v.getD i .zero).isNaN = false := by
  rw [List.getD]
  cases h : v[i]? with
  | none => rfl
  | some a => exact clean a (List.mem_of_getElem? h)

/-- Lists with the same places in the numeric order have the same middle. -/
theorem middleOf_sameNumber {v w : List F64} (keys : v.map F64.orderKey = w.map F64.orderKey)
    (hv : ∀ a ∈ v, a.isNaN = false) (hw : ∀ a ∈ w, a.isNaN = false) : F64.SameNumber (middleOf v) (middleOf w) := by
  have hlen : v.length = w.length := by simpa using congrArg List.length keys
  have same (i : Nat) : F64.SameNumber (v.getD i .zero) (w.getD i .zero) :=
    F64.sameNumber_of_orderKey_eq (isNaN_getD hv i) (isNaN_getD hw i) (by
      rw [← List.getD_map (f := F64.orderKey), keys, List.getD_map])
  unfold middleOf
  rw [hlen]
  split
  · exact same _
  · exact ((same _).add (same _) (isNaN_getD hw _) (isNaN_getD hv _)).div_two

theorem medianOf_eq {vs : List F64} (clean : ∀ a ∈ vs, a.isNaN = false) (draws : Nat) :
    medianOf draws vs =
      if (middleOf (sortAscending vs)).isZero && mixedZeros vs then .signedZero (Config.medianZeroNeg draws vs)
      else middleOf (sortAscending vs) := by
  have noNaN : vs.any F64.isNaN = false := by simpa using clean
  rw [medianOf, noNaN, middleOf, (sortAscending_perm clean).length_eq]
  rfl

/-- The median by any ascending order: its middle, but for the sign of a zero from a window with zeros of both signs. -/
theorem medianOf_of_ascending {v vs : List F64} (perm : v.Perm vs) (ascending : v.Pairwise (fun a b => F64.lt b a = false))
    (clean : ∀ a ∈ vs, a.isNaN = false) (draws : Nat) :
    ((middleOf v).isZero = true ∧ mixedZeros vs = true → (medianOf draws vs).isZero = true) ∧
      (¬ ((middleOf v).isZero = true ∧ mixedZeros vs = true) → medianOf draws vs = middleOf v) := by
  have hv : ∀ a ∈ v, a.isNaN = false := fun a ha => clean a (perm.subset ha)
  have ascending : v.Pairwise (fun a b => a.orderKey ≤ b.orderKey) :=
    ascending.imp_of_mem fun ha hb => (F64.lt_eq_false_iff (hv _ ha) (hv _ hb)).mp
  have same : F64.SameNumber (middleOf v) (middleOf (sortAscending vs)) :=
    middleOf_sameNumber (map_orderKey_eq perm ascending clean) hv fun a ha => clean a ((sortAscending_perm clean).subset ha)
  rw [medianOf_eq clean, ← same.isZero_eq]
  cases mixed : mixedZeros vs with
  | false => simp [← eq_sortAscending_of_unmixed mixed perm ascending clean]
  | true =>
      cases zero : (middleOf v).isZero with
      | false => simp [same.eq_of_isZero_eq_false zero]
      | true => exact ⟨fun _ => rfl, fun h => absurd ⟨rfl, rfl⟩ h⟩

/-- The values that a window holds, as the step reads them. -/
theorem map_readWindow {win : List (Option F64)} {present : List F64}
    (held : ∀ j < present.length, win[j]? = (present[j]?).map some) :
    (List.range present.length).map (readWindow win) = present := by
  refine List.ext_getElem (by simp) fun j _ hj => ?_
  rw [List.getElem_map, List.getElem_range]
  exact readWindow_of_getElem? (by rw [held j hj, List.getElem?_eq_getElem hj, Option.map_some])

theorem medianStep_eq {r : MedianFilter} {x : F64} {present : List F64}
    (count : present.length = if r.n < r.w then r.n + 1 else r.n)
    (held : ∀ j < present.length, (r.win.set r.idx (some x))[j]? = (present[j]?).map some) :
    medianStep r x =
      ({ r with
          win := r.win.set r.idx (some x)
          idx := (r.idx + 1) % r.w
          n := present.length
          draws := r.draws + 1 },
        medianOf r.draws present) := by
  simp only [medianStep, ← count, map_readWindow held]

/-- Settles O47: the step stores the window and answers the median of the values in it. -/
theorem medianApplies : Obligations.MedianApplies := by
  unfold Obligations.MedianApplies
  intro s c ch r x present ready there selected count held i hi
  have run := exec_dfApply_row rfl ready there selected hi
  rw [dfStep, medianStep_eq count held] at run
  refine ⟨medianOf r.draws present, run, fun v perm ascending clean low high hhigh hlow => ?_⟩
  intro median open_
  have hmedian : median = middleOf v := (middleOf_eq hhigh hlow).symm
  have hopen : open_ ↔ (middleOf v).isZero = true ∧ mixedZeros present = true := by
    rw [mixedZeros_iff, ← hmedian]
  rw [hopen, hmedian]
  exact medianOf_of_ascending perm ascending clean r.draws

end Sys2Proof.Machine
end

section
/-! PROOFS. The resampler on one channel (44_resampler.md R284 to R290): what `fir` reads of a stream, the downsampler's loop in closed
form, how many values a block gives, and a block cut in two. -/

namespace Sys2Proof.Machine

/-! ### The filter along a stream -/

/-- Position `j` reads the 65 samples that end at `j + 64`. -/
theorem fir_congr {h z w : List F64} {i j : Nat}
    (same : ∀ k < Config.kernelLength, z.getD (i + 64 - k) .zero = w.getD (j + 64 - k) .zero) :
    fir h z i = fir h w j :=
  List.foldl_ext _ _ _ fun acc k hk => by rw [same k (List.mem_range.mp hk)]

theorem fir_append {h z w : List F64} {j : Nat} (inside : j + 64 < z.length) : fir h (z ++ w) j = fir h z j :=
  fir_congr fun k _ => List.getD_append _ _ _ _ (by omega)

theorem fir_drop (h z : List F64) (n j : Nat) : fir h (z.drop n) j = fir h z (n + j) :=
  fir_congr fun k hk => by
    have hk : k < 65 := hk
    simp only [List.getD_eq_getElem?_getD, List.getElem?_drop, show n + (j + 64 - k) = n + j + 64 - k by omega]

section Stream

variable {t : List F64}

theorem lastTail_append (full : t.length = Config.tailLength) (u : List F64) : lastTail (t ++ u) = (t ++ u).drop u.length := by
  rw [lastTail, List.length_append, full, Nat.add_sub_cancel_left]

theorem lastTail_of_length_eq (full : t.length = Config.tailLength) : lastTail t = t := by
  rw [lastTail, full, Nat.sub_self, List.drop_zero]

/-- The stream of a later block is what is left of the whole stream. -/
theorem lastTail_append_append (full : t.length = Config.tailLength) (u w : List F64) :
    lastTail (t ++ u) ++ w = (t ++ (u ++ w)).drop u.length := by
  rw [lastTail_append full, ← List.append_assoc, List.drop_append_of_le_length (l₁ := t ++ u) (by simp)]

theorem fir_first_block (full : t.length = Config.tailLength) (h u w : List F64) {j : Nat} (hj : j < u.length) :
    fir h (t ++ (u ++ w)) j = fir h (t ++ u) j := by
  have full : t.length = 64 := full
  rw [← List.append_assoc, fir_append (by rw [List.length_append]; omega)]

theorem fir_second_block (full : t.length = Config.tailLength) (h u w : List F64) (j : Nat) :
    fir h (t ++ (u ++ w)) (u.length + j) = fir h (lastTail (t ++ u) ++ w) j := by
  rw [lastTail_append_append full, fir_drop]

/-- Two refreshes of the tail, block by block, are one. -/
theorem lastTail_second_block (full : t.length = Config.tailLength) (u w : List F64) :
    lastTail (lastTail (t ++ u) ++ w) = lastTail (t ++ (u ++ w)) := by
  have kept : (lastTail (t ++ u)).length = Config.tailLength := length_lastTail (by rw [List.length_append]; omega)
  rw [lastTail_append kept, lastTail_append_append full, List.drop_drop, lastTail_append full, List.length_append]

end Stream

/-! ### The upsampler -/

theorem length_zeroStuff (zeros : Nat) (x : List F64) : (zeroStuff zeros x).length = x.length * (zeros + 1) := by
  simp [zeroStuff]

theorem zeroStuff_append (zeros : Nat) (a b : List F64) : zeroStuff zeros (a ++ b) = zeroStuff zeros a ++ zeroStuff zeros b :=
  List.flatMap_append

theorem length_upsample (h : List F64) (gain : F64) (m : Nat) (r : Resamp) (x : List F64) :
    (upsample h gain m r x).2.length = x.length * m := by
  simp [upsample]

/-- Cutting a block in two changes neither the upsampler's outputs nor its state. -/
theorem upsample_append (h : List F64) (gain : F64) {m : Nat} (hm : 0 < m) {r : Resamp} (full : r.tail.length = Config.tailLength)
    (a b : List F64) :
    upsample h gain m r (a ++ b) =
      ((upsample h gain m (upsample h gain m r a).1 b).1,
        (upsample h gain m r a).2 ++ (upsample h gain m (upsample h gain m r a).1 b).2) := by
  have stuffed : (zeroStuff (m - 1) a).length = a.length * m := by rw [length_zeroStuff, Nat.sub_add_cancel hm]
  have first : (List.range (a.length * m)).map
        (fun j => F64.mul gain (fir h (r.tail ++ (zeroStuff (m - 1) a ++ zeroStuff (m - 1) b)) j)) =
      (List.range (a.length * m)).map (fun j => F64.mul gain (fir h (r.tail ++ zeroStuff (m - 1) a) j)) :=
    List.map_congr_left fun j hj => by
      rw [fir_first_block full _ _ _ (by rw [stuffed]; exact List.mem_range.mp hj)]
  have second := fir_second_block full h (zeroStuff (m - 1) a) (zeroStuff (m - 1) b)
  rw [stuffed] at second
  simp only [upsample, zeroStuff_append, lastTail_second_block full, List.length_append, Nat.add_mul, List.range_add, List.map_append,
    List.map_map, Function.comp_def, first, second]

/-! ### The downsampler -/

/-- The positions of a block of `n` samples at which the phase is 0 (R288). -/
def keptPositions (m phase n : Nat) : List Nat := (List.range n).filter (fun j => (phase + j) % m == 0)

/-- The counter one position on. -/
theorem advance_mod (m phase j : Nat) : ((phase + 1) % m + j) % m = (phase + (j + 1)) % m := by
  rw [Nat.mod_add_mod, Nat.add_assoc, Nat.add_comm 1]

theorem keptPositions_succ_left {m phase : Nat} (hp : phase < m) (n : Nat) :
    keptPositions m phase (n + 1) =
      if phase = 0 then 0 :: (keptPositions m ((phase + 1) % m) n).map (· + 1)
      else (keptPositions m ((phase + 1) % m) n).map (· + 1) := by
  simp only [keptPositions, advance_mod, List.range_succ_eq_map, List.filter_cons, List.filter_map, Function.comp_def, Nat.add_zero,
    Nat.mod_eq_of_lt hp, beq_iff_eq, Nat.succ_eq_add_one]

/-- The loop keeps the filtered samples at the positions where the phase is 0. -/
theorem decimate_eq (h z : List F64) {m : Nat} (n j : Nat) {phase : Nat} (hp : phase < m) :
    decimate h z m n j phase = ((keptPositions m phase n).map (fun i => fir h z (j + i)), (phase + n) % m) := by
  induction n generalizing j phase with
  | zero => rw [decimate, Nat.add_zero, Nat.mod_eq_of_lt hp]; rfl
  | succ n ih =>
      have shift (i : Nat) : j + 1 + i = j + (i + 1) := by omega
      simp only [decimate, ih (j + 1) (Nat.mod_lt _ (Nat.zero_lt_of_lt hp)), advance_mod, keptPositions_succ_left hp, shift]
      split <;> simp [Function.comp_def]

theorem downsample_eq (h : List F64) {m : Nat} {r : Resamp} (hp : r.phase < m) (x : List F64) :
    downsample h m r x =
      ({ tail := lastTail (r.tail ++ x), phase := (r.phase + x.length) % m },
        (keptPositions m r.phase x.length).map (fir h (r.tail ++ x))) := by
  simp only [downsample, decimate_eq _ _ _ _ hp, Nat.zero_add]

/-- The loop over two stretches, the phase handed on. -/
theorem decimate_add (h z : List F64) (m n k j phase : Nat) :
    decimate h z m (n + k) j phase =
      ((decimate h z m n j phase).1 ++ (decimate h z m k (j + n) (decimate h z m n j phase).2).1,
        (decimate h z m k (j + n) (decimate h z m n j phase).2).2) := by
  induction n generalizing j phase with
  | zero => rw [Nat.zero_add]; rfl
  | succ n ih =>
      rw [Nat.succ_add, decimate, ih, decimate, Nat.add_assoc, Nat.add_comm 1]
      split <;> rfl

/-- The loop looks at its stream through `fir` only. -/
theorem decimate_congr {h z w : List F64} (m : Nat) {n i j : Nat} (phase : Nat) (same : ∀ k < n, fir h z (i + k) = fir h w (j + k)) :
    decimate h z m n i phase = decimate h w m n j phase := by
  induction n generalizing i j phase with
  | zero => rfl
  | succ n ih =>
      have later : ∀ k < n, fir h z (i + 1 + k) = fir h w (j + 1 + k) := fun k hk => by
        rw [Nat.add_right_comm i, Nat.add_right_comm j]
        exact same (k + 1) (Nat.succ_lt_succ hk)
      rw [decimate, decimate, ih _ later, show fir h z i = fir h w j from same 0 n.succ_pos]

/-- Cutting a block in two changes neither the downsampler's outputs nor its state. -/
theorem downsample_append (h : List F64) (m : Nat) {r : Resamp} (full : r.tail.length = Config.tailLength) (a b : List F64) :
    downsample h m r (a ++ b) =
      ((downsample h m (downsample h m r a).1 b).1,
        (downsample h m r a).2 ++ (downsample h m (downsample h m r a).1 b).2) := by
  have first : decimate h (r.tail ++ (a ++ b)) m a.length 0 r.phase = decimate h (r.tail ++ a) m a.length 0 r.phase :=
    decimate_congr m r.phase fun k hk => by rw [Nat.zero_add, fir_first_block full h a b hk]
  have second (phase : Nat) : decimate h (r.tail ++ (a ++ b)) m b.length a.length phase =
      decimate h (lastTail (r.tail ++ a) ++ b) m b.length 0 phase :=
    decimate_congr m phase fun k _ => by rw [Nat.zero_add, fir_second_block full]
  simp only [downsample, List.length_append, decimate_add, Nat.zero_add, first, second, lastTail_second_block full]

/-- Position `n` is kept when the counter, `(m - phase) % m` before its first 0, has come to 0 again. -/
theorem add_mod_eq_zero_iff_dvd {m phase : Nat} (hp : phase < m) (n : Nat) :
    (phase + n) % m = 0 ↔ m ∣ n + (m - 1 - (m - phase) % m) + 1 := by
  rcases Nat.eq_zero_or_pos phase with rfl | pos
  · rw [Nat.sub_zero, Nat.mod_self, show n + (m - 1 - 0) + 1 = n + m by omega, Nat.dvd_add_self_right, Nat.zero_add,
      Nat.dvd_iff_mod_eq_zero]
  · rw [Nat.mod_eq_of_lt (a := m - phase) (by omega), show n + (m - 1 - (m - phase)) + 1 = phase + n by omega,
      Nat.dvd_iff_mod_eq_zero]

theorem length_keptPositions {m phase : Nat} (hp : phase < m) (n : Nat) :
    (keptPositions m phase n).length = (n + (m - 1 - (m - phase) % m)) / m := by
  induction n with
  | zero => rw [Nat.zero_add, Nat.div_eq_of_lt (by omega)]; rfl
  | succ n ih =>
      have last : (keptPositions m phase (n + 1)).length =
          (keptPositions m phase n).length + if (phase + n) % m = 0 then 1 else 0 := by
        simp only [keptPositions, List.range_succ, List.filter_append, List.length_append, List.filter_singleton,
          Bool.cond_eq_ite, beq_iff_eq]
        split <;> rfl
      rw [last, ih, Nat.add_right_comm, Nat.succ_div]
      simp only [add_mod_eq_zero_iff_dvd hp]

theorem length_downsample (h : List F64) {m : Nat} {r : Resamp} (hp : r.phase < m) (x : List F64) :
    (downsample h m r x).2.length = (x.length + (m - 1 - (m - r.phase) % m)) / m := by
  rw [downsample_eq h hp, List.length_map, length_keptPositions hp]

/-- The number of values by the first position kept (R289). -/
theorem add_div_eq_of_first {m d : Nat} (hd : d < m) (n : Nat) :
    (n + (m - 1 - d)) / m = if n ≤ d then 0 else (n - 1 - d) / m + 1 := by
  split
  · next short => exact Nat.div_eq_of_lt (by omega)
  · next long =>
      rw [← Nat.add_div_right _ (Nat.zero_lt_of_lt hd)]
      congr 1
      omega

/-! ### The variant in force -/

section Block

variable {factor : Int}

theorem rsBlock_zero (t : Tables) (r : Resamp) (x : List F64) : rsBlock t 0 r x = (r, x) := rfl

theorem rsBlock_of_pos (up : 0 < factor) (t : Tables) (r : Resamp) (x : List F64) :
    rsBlock t factor r x = upsample (t.kernelOf (ratio factor)) (t.gainOf (ratio factor)) (ratio factor) r x := by
  rw [rsBlock, if_neg up.ne', if_pos up]

theorem rsBlock_of_neg (down : factor < 0) (t : Tables) (r : Resamp) (x : List F64) :
    rsBlock t factor r x = downsample (t.kernelOf (ratio factor)) (ratio factor) r x := by
  rw [rsBlock, if_neg down.ne, if_neg down.not_gt]

theorem rsBlock_nil (t : Tables) {r : Resamp} (full : r.tail.length = Config.tailLength) : rsBlock t factor r [] = (r, []) := by
  have tail : lastTail (r.tail ++ []) = r.tail := by rw [List.append_nil, lastTail_of_length_eq full]
  rcases lt_trichotomy factor 0 with down | rfl | up
  · rw [rsBlock_of_neg down, downsample, tail]
    rfl
  · rfl
  · rw [rsBlock_of_pos up, upsample, zeroStuff, List.flatMap_nil, tail, List.length_nil, Nat.zero_mul]
    rfl

/-- R290, for every variant. -/
theorem rsBlock_append (t : Tables) {r : Resamp} (full : r.tail.length = Config.tailLength) (a b : List F64) :
    rsBlock t factor r (a ++ b) =
      ((rsBlock t factor (rsBlock t factor r a).1 b).1,
        (rsBlock t factor r a).2 ++ (rsBlock t factor (rsBlock t factor r a).1 b).2) := by
  rcases lt_trichotomy factor 0 with down | rfl | up
  · simp only [rsBlock_of_neg down, downsample_append _ _ full]
  · rfl
  · simp only [rsBlock_of_pos up, upsample_append _ _ (ratio_pos factor) full]

end Block

end Sys2Proof.Machine
end

section
/-! PROOFS. RS_PROCESS, RS_SET_FACTOR and RS_RESET (44_resampler.md R285 to R292). -/

namespace Sys2Proof.Machine

/-- The state in which RS_PROCESS of a block leaves channel `c`, and its outputs. -/
def State.resampled (s : State) (c : BitVec 8) (ch : Channel) (x : List F64) : State :=
  (s.setChan c { ch with rs := (rsBlock s.tables s.factor ch.rs x).1 }).answer (.samples (rsBlock s.tables s.factor ch.rs x).2)

section Operations

variable {s : State} {c : BitVec 8} {ch : Channel} {x : List F64}

theorem exec_rsProcess (ready : s.ready = true) (there : s.chan? c = some ch) (x : List F64) :
    exec (.rsProcess c x) s = .next (s.resampled c ch x) :=
  onChannel_of_chan ready there _

/-- RS_PROCESS and a variant row of it take the block through the variant that `FACTOR` selects. -/
theorem exec_rsProcess_row {row i : Instr} (hrow : row.base = .rsProcess c x) (ready : s.ready = true)
    (there : s.chan? c = some ch) (hi : i ∈ [Instr.rsProcess c x, row]) : exec i s = .next (s.resampled c ch x) := by
  have hbase : i.base = .rsProcess c x := by
    rcases List.mem_pair.mp hi with rfl | rfl
    · rfl
    · exact hrow
  rw [exec_eq_exec_base, hbase, exec_rsProcess ready there]

theorem State.resampled_eq {r : Resamp} {ys : List F64} (block : rsBlock s.tables s.factor ch.rs x = (r, ys)) :
    s.resampled c ch x = (s.setChan c { ch with rs := r }).answer (.samples ys) := by
  rw [State.resampled, block]

/-- A block that leaves the channel's resampler leaves the state. -/
theorem State.resampled_eq_answer {ys : List F64} (there : s.chan? c = some ch)
    (block : rsBlock s.tables s.factor ch.rs x = (ch.rs, ys)) : s.resampled c ch x = s.answer (.samples ys) := by
  rw [State.resampled_eq block]
  exact congrArg (State.answer · _) (State.setChan_self there)

theorem State.chan?_resampled (there : s.chan? c = some ch) (x : List F64) :
    (s.resampled c ch x).chan? c = some { ch with rs := (rsBlock s.tables s.factor ch.rs x).1 } :=
  State.chan?_setChan_self there

theorem exec_rsSetFactor {k : Int} (ready : s.ready = true) :
    exec (.rsSetFactor k) s =
      if factorLegal k then
        if k = s.factor then .next (s.answer .none)
        else .next ({ s with factor := k, chans := resetResamplers s.chans }.answer .none)
      else .refused .badFactor :=
  whenReady_of_ready ready _

theorem exec_rsReset (ready : s.ready = true) :
    exec .rsReset s = .next ({ s with chans := resetResamplers s.chans }.answer .none) := whenReady_of_ready ready _

theorem factorLegal_iff {k : Int} : factorLegal k = true ↔ -9 ≤ k ∧ k ≤ 9 := by
  rw [factorLegal, Bool.and_eq_true, decide_eq_true_eq, decide_eq_true_eq]
  rfl

end Operations

/-- Settles O54: bypassed, a channel's resampler is written back as it was. -/
theorem bypassPassesThrough : Obligations.BypassPassesThrough := by
  unfold Obligations.BypassPassesThrough
  intro s c ch x ready there bypass i hi
  have block : rsBlock s.tables s.factor ch.rs x = (ch.rs, x) := by rw [bypass, rsBlock_zero]
  rw [exec_rsProcess_row rfl ready there hi, State.resampled_eq_answer there block]
  rfl

/-- Settles O55: `upsample` is the rule's formula, its ratio `FACTOR + 1`. -/
theorem upsamplerApplies : Obligations.UpsamplerApplies := by
  unfold Obligations.UpsamplerApplies
  intro s c ch x ready there up m h z fir i hi
  have hratio : ratio s.factor = s.factor.toNat + 1 := by rw [ratio]; omega
  rw [exec_rsProcess_row rfl ready there hi, State.resampled_eq (rsBlock_of_pos up _ _ _), hratio]
  rfl

/-- Settles O56: the loop of R288 in closed form. -/
theorem downsamplerApplies : Obligations.DownsamplerApplies := by
  unfold Obligations.DownsamplerApplies
  intro s c ch x ready there down phase m h z fir i hi
  have block := (rsBlock_of_neg down s.tables ch.rs x).trans (downsample_eq _ phase x)
  rw [exec_rsProcess_row rfl ready there hi, State.resampled_eq block]
  rfl

/-- Settles O57: the lengths variant by variant. -/
theorem resamplerLengths : Obligations.ResamplerLengths := by
  unfold Obligations.ResamplerLengths
  intro s c ch x ready there wf m d
  obtain ⟨full, phase⟩ := Resamp.wf_iff.mp wf
  have hm : 0 < m := ratio_pos s.factor
  have down (neg : s.factor < 0) : (rsBlock s.tables s.factor ch.rs x).2.length = (x.length + (m - 1 - d)) / m := by
    rw [rsBlock_of_neg neg, length_downsample _ phase]
    rfl
  refine ⟨_, _, exec_rsProcess ready there x, rfl, ?_, ?_, ?_, ?_, ?_⟩
  · intro bypass
    rw [bypass, rsBlock_zero]
  · intro up
    rw [rsBlock_of_pos up, length_upsample]
    rfl
  · intro neg
    rw [down neg, add_div_eq_of_first (Nat.mod_lt _ hm)]
  · intro neg start
    have first : d = 0 := by simp only [d, start, Nat.sub_zero, Nat.mod_self]
    rw [down neg, first, Nat.sub_zero, Nat.add_sub_assoc hm]
  · rintro rfl
    exact State.resampled_eq_answer there (rsBlock_nil _ full)

/-- Settles O58: `rsBlock_append` at the channel, written once or twice. -/
theorem resamplerSplits : Obligations.ResamplerSplits := by
  unfold Obligations.ResamplerSplits
  intro s c ch a b ready there full
  have cut := rsBlock_append s.tables (factor := s.factor) full a b
  have ready' : (s.resampled c ch a).ready = true := ready
  refine ⟨_, _, _, _, _, _, exec_rsProcess ready there _, rfl, exec_rsProcess ready there a, rfl,
    exec_rsProcess ready' (State.chan?_resampled there a) b, rfl, congrArg Prod.snd cut, ?_⟩
  rw [State.resampled_eq cut]
  simp only [State.resampled, State.setChan, State.answer, List.set_set]

/-- Settles O59: the range, the value already there, and a change. -/
theorem factorAndReset : Obligations.FactorAndReset := by
  unfold Obligations.FactorAndReset
  intro s k cleared
  refine ⟨rfl, rfl, fun ready => ⟨fun outside => ?_, fun low high same => ?_, fun low high change => ?_, exec_rsReset ready⟩⟩
  · have illegal : ¬ factorLegal k = true := by rw [factorLegal_iff]; omega
    rw [exec_rsSetFactor ready, if_neg illegal]
  · rw [exec_rsSetFactor ready, if_pos (factorLegal_iff.mpr ⟨low, high⟩), if_pos same]
    rfl
  · rw [exec_rsSetFactor ready, if_pos (factorLegal_iff.mpr ⟨low, high⟩), if_neg change]
    rfl

end Sys2Proof.Machine
end

section
/-! PROOFS. The exception and the refusals at the block's entry (60_exceptions.md R321, R325 f, R331): what a Discard leaves, which blocks
are bad, and that no step but that of a SYS_RESET takes anything off a total-written counter. -/

namespace Sys2Proof.Machine

/-! ### Totals written -/

/-- Every channel is still there, with a total at least what it was. -/
def TotalsKept (s t : State) : Prop :=
  ∀ (d : BitVec 8) (ch : Channel), s.chan? d = some ch → ∃ ch', t.chan? d = some ch' ∧ ch.ring.total.toNat ≤ ch'.ring.total.toNat

theorem TotalsKept.refl (s : State) : TotalsKept s s := fun _ ch there => ⟨ch, there, le_rfl⟩

/-- One channel is stored, its total no smaller. -/
theorem TotalsKept.setChan {s : State} {c : BitVec 8} {ch new : Channel} (there : s.chan? c = some ch)
    (grows : ch.ring.total.toNat ≤ new.ring.total.toNat) : TotalsKept s (s.setChan c new) := by
  intro d old hd
  by_cases hdc : d = c
  · subst hdc
    obtain rfl : ch = old := Option.some.inj (there.symm.trans hd)
    exact ⟨new, State.chan?_setChan_self there, grows⟩
  · exact ⟨old, by rw [State.chan?_setChan_of_ne hdc, hd], le_rfl⟩

/-- An append that is not refused adds to `TOTAL` how many values it appends (40_ringbuffer.md R142, R149). -/
theorem Ring.total_append {cap : Nat} {r q : Ring} {vs : List F64} (h : r.append cap vs = some q) :
    q.total.toNat = r.total.toNat + vs.length := by
  obtain ⟨room, rfl⟩ := Ring.append_eq_some.mp h
  exact Ring.foldl_add_total vs room

/-- An operation on a channel appends to its RingBuffer, clears it with the total kept, or leaves it. -/
theorem ChannelEffect.total_le {s : State} {c : BitVec 8} {ch ch' : Channel} {i : Instr} (e : ChannelEffect s c ch i ch') :
    ch.ring.total.toNat ≤ ch'.ring.total.toNat := by
  cases e with
  | rbAdd room | rbAddRange room => exact Ring.total_append room ▸ Nat.le_add_right ..
  | _ => exact le_rfl

/-- Only an operation on a channel writes a RingBuffer. -/
theorem Effect.totalsKept {s t : State} {i : Instr} (e : Effect s i t) (hi : isSysReset i = false) : TotalsKept s t := by
  cases ring : writesRing i with
  | false =>
      intro d ch there
      obtain ⟨ch', there', kept, -⟩ := e.exists_chan? hi there
      exact ⟨ch', there', (congrArg (·.total.toNat) (kept ring)).ge⟩
  | true =>
      cases e with
      | channel _ there effect => exact TotalsKept.setChan there effect.total_le
      | sysReset | fpDiscard | fpParse | chProcessBlock | rsKeepFactor | rsSetFactor | rsReset => cases ring

theorem commitStep_totalsKept {s t : State} {a : Nat} {c : BitVec 8} (h : commitStep s a c = .next t) : TotalsKept s t := by
  obtain ⟨-, rfl⟩ | ⟨values, ch, r, -, -, there, room, rfl⟩ := commitStep_next h
  · exact TotalsKept.refl _
  · exact TotalsKept.setChan there (Ring.total_append room ▸ Nat.le_add_right ..)

theorem isSysReset_eq_false {i : Instr} (h : ∀ p, i ≠ .sysReset p) : isSysReset i = false := by
  cases i with
  | sysReset p => exact absurd rfl (h p)
  | _ => rfl

/-- Settles O14: a commit step keeps every total, however a step brings it, and so does an operation that is no SYS_RESET. -/
theorem totalNeverFalls : Obligations.TotalNeverFalls := by
  unfold Obligations.TotalNeverFalls
  intro s t h notReset
  rcases step_next h with ⟨-, hd⟩ | ⟨a, c, rest, -, hc⟩ | ⟨a, cmd, rest, c, -, -, hc⟩ | ⟨a, cmd, rest, i, next, -, decoded, he⟩
  · obtain rfl | ⟨f, rest, p, more, -, -, hc⟩ := drainStep_next hd
    · exact TotalsKept.refl _
    · exact commitStep_totalsKept hc
  · exact commitStep_totalsKept (s := { s with inbox := rest }) hc
  · exact commitStep_totalsKept hc
  · have hi : isSysReset i = false := isSysReset_eq_false fun p hp => notReset a cmd rest p next (hp ▸ decoded)
    obtain ⟨hbase, -⟩ := writes_base i
    exact (effect_of_exec he).totalsKept (hbase.trans hi)

/-! ### Bad blocks -/

/-- The converse of `blockRectangular_of_length_eq`: every array is as long as the first. -/
theorem length_eq_of_blockRectangular {samples : List (List F64)} (rect : blockRectangular samples = true) :
    ∀ a ∈ samples, ∀ b ∈ samples, a.length = b.length := by
  cases samples with
  | nil => exact nofun
  | cons first rest =>
      have asFirst : ∀ a ∈ first :: rest, a.length = first.length :=
        List.forall_mem_cons.mpr ⟨rfl, fun a ha => of_decide_eq_true (List.all_eq_true.mp rect a ha)⟩
      exact fun a ha b hb => (asFirst a ha).trans (asFirst b hb).symm

/-- Settles O38: each way a block can be bad fails one half of step 0's test. -/
theorem badBlockRefused : Obligations.BadBlockRefused := by
  unfold Obligations.BadBlockRefused
  intro s samples ready bad
  refine (whenReady_of_ready ready _).trans (if_neg ?_)
  rintro ⟨count, rect⟩
  rcases bad with miscounted | ⟨a, ha, b, hb, ragged⟩
  · exact miscounted count
  · exact ragged (length_eq_of_blockRectangular rect a ha b hb)

/-! ### Discard -/

/-- The fault is looked at before anything is decoded (60_exceptions.md R327), so the mode does not matter. -/
theorem exec_fpParse_of_fault {s : State} {chunk : List Byte} (ready : s.ready = true) (short : chunk.length ≤ s.cr.chunkMax) :
    exec (.fpParse chunk true) s = .next (raiseDiscard s) := by
  simp only [exec, execFpParse, parseWith, whenReady_of_ready ready, if_neg short.not_gt, if_true]

/-- Settles O24: the variant rows do what FP_PARSE does, and that raises the exception. -/
theorem discardEmptiesResidue : Obligations.DiscardEmptiesResidue := by
  unfold Obligations.DiscardEmptiesResidue
  intro s chunk ready short i hi
  have hbase : i.base = .fpParse chunk true := by
    simp only [List.mem_cons, List.not_mem_nil, or_false] at hi
    obtain rfl | rfl | rfl := hi <;> rfl
  rw [exec_eq_exec_base, hbase, exec_fpParse_of_fault ready short]
  rfl

end Sys2Proof.Machine
end

section
/-! PROOFS. SYS_RESET and what precedes and follows it (70_reset_and_hazards.md R350 to R353): what it constructs, that before the first one
nothing else is performed, and that the first block after one passes through. -/

namespace Sys2Proof

/-! ### The reset calibration -/

/-- 1.0 in units of 2^-1074. -/
theorem F64.magUnits_one : F64.magUnits (4607182418800017408 : Fin infMag).val = 2 ^ 1074 := by
  have hfields : (4607182418800017408 : Fin infMag).val = 1023 * 2 ^ 52 + 0 := by norm_num
  rw [hfields, F64.magUnits_fields (Nat.two_pow_pos 52), if_neg (by decide), Nat.add_zero, ← pow_add]

/-- 1.0 is neutral for every finite sample, either zero included. -/
theorem F64.mul_one_of_isFinite {v : F64} (finite : v.isFinite = true) : F64.mul v .one = v := by
  cases v with
  | finite neg m =>
      have hone := F64.magUnits_one
      have hunit : 0 < 2 ^ 1074 := by positivity
      rw [F64.one, F64.mul]
      generalize 2 ^ 1074 = unit at hone hunit ⊢
      rw [hone, F64.roundUnits_magUnits hunit, Bool.bne_false, F64.ofMag, dif_pos m.isLt]
  | inf neg => cases finite
  | nan n => cases finite

/-- The sign of a finite number other than -0.0 is that of its value. -/
theorem F64.signedUnits_lt_zero_iff {neg : Bool} {m : Fin infMag} (notNegZero : F64.finite neg m ≠ .signedZero true) :
    F64.signedUnits neg m.val < 0 ↔ neg = true := by
  cases neg with
  | false => simp [F64.signedUnits]
  | true =>
      have hm : m.val ≠ 0 := fun h => notNegZero (congrArg _ (Fin.ext h))
      have hpos : F64.magUnits m.val ≠ 0 := mt F64.magUnits_eq_zero.mp hm
      simp [F64.signedUnits, Nat.pos_of_ne_zero hpos]

/-- +0.0 is neutral for every finite sample but -0.0. -/
theorem F64.add_zero_of_isFinite {v : F64} (finite : v.isFinite = true) (notNegZero : v ≠ .signedZero true) :
    F64.add v .zero = v := by
  cases v with
  | finite neg m =>
      have zeroUnits : F64.signedUnits false (0 : Fin infMag).val = 0 := F64.signedUnits_eq_zero.mpr rfl
      have sign : decide (F64.signedUnits neg m.val < 0) = neg := by
        rw [Bool.decide_congr (F64.signedUnits_lt_zero_iff notNegZero), Bool.decide_eq_true]
      rw [F64.zero, F64.add_finite, Bool.and_false, zeroUnits, Int.add_zero,
        F64.ofUnits_exact (F64.natAbs_signedUnits neg m.val).symm, sign]
  | inf neg => cases finite
  | nan n => cases finite

end Sys2Proof

namespace Sys2Proof.Machine

/-! ### SYS_RESET -/

theorem exec_sysReset {p : Params} (legal : p.legal = true) (s : State) : exec (.sysReset p) s = .next (s.construct p) :=
  if_pos legal

theorem exec_sysReset_of_not_legal {p : Params} (illegal : p.legal = false) (s : State) :
    exec (.sysReset p) s = .refused .badConstruction :=
  if_neg (Bool.eq_false_iff.mp illegal)

/-- Settles O1: `State.construct` field by field. -/
theorem sysResetConstructs : Obligations.SysResetConstructs := by
  unfold Obligations.SysResetConstructs
  intro s p
  refine ⟨rfl, fun illegal => exec_sysReset_of_not_legal illegal s, fun legal => ?_⟩
  obtain ⟨-, -, count, -⟩ := legal_bounds legal
  refine ⟨_, exec_sysReset legal s, rfl, rfl, rfl, rfl, rfl, rfl, rfl, rfl, rfl, ?_, fun c cap hcap => ?_⟩
  · rw [State.construct_chans, List.length_map, count]
  · rw [State.construct_chans, List.getElem?_map, hcap]
    rfl

/-! ### Before the first SYS_RESET -/

theorem whenReady_of_not_ready {s : State} (h : s.ready = false) (go : Result) : whenReady s go = .refused .notReset :=
  if_neg (Bool.eq_false_iff.mp h)

/-- Every operation but SYS_RESET is refused, on a channel or not. -/
theorem exec_of_not_ready {s : State} (ready : s.ready = false) {i : Instr} (notReset : ∀ p, i ≠ .sysReset p) :
    exec i s = .refused .notReset := by
  cases named : channelOf i with
  | some c =>
      obtain ⟨go, hgo⟩ := exec_eq_onChannel named s
      exact hgo.trans (whenReady_of_not_ready ready _)
  | none =>
      rw [exec_eq_exec_base]
      cases i with
      | sysReset p => exact absurd rfl (notReset p)
      | fpParse | fpParseBin | fpParseAscii | chProcessBlock | rsSetFactor | rsReset => exact whenReady_of_not_ready ready _
      | _ => cases named

/-- No agent has to wait for a block, whatever the records hold. -/
theorem step_of_issue_not_ready {s : State} {agent : Nat} {cmd : Command} {rest : List Event} {i : Instr}
    (ready : s.ready = false) (next : s.inbox = .issue agent cmd :: rest) (decoded : decode cmd = .ok i) :
    step s = exec i { s with inbox := rest, turn := agent } := by
  have idle : nextPending agent s.inFlight = none := by
    rw [State.inFlight_of_not_ready ready]
    rfl
  rw [step_of_issue_idle next idle, performCommand_of_decode_ok decoded]

/-- A commit event finds no block to commit and is dropped (log 12). -/
theorem step_of_commit_not_ready {s : State} {agent : Nat} {c : BitVec 8} {rest : List Event}
    (ready : s.ready = false) (next : s.inbox = .commit agent c :: rest) : step s = .next { s with inbox := rest } := by
  have noBlock : State.inFlight { s with inbox := rest } = [] := State.inFlight_of_not_ready ready
  simp only [step, next, performEvent, commitStep, noBlock, findPending, List.find?_nil, Option.bind_none]

/-- Settles O3: `exec` refuses or constructs, and a step reaches it because no block is in flight. -/
theorem refusedBeforeReset : Obligations.RefusedBeforeReset := by
  unfold Obligations.RefusedBeforeReset
  intro s ready
  refine ⟨fun i notReset => exec_of_not_ready ready notReset, fun agent cmd rest i next decoded notReset => ?_,
    fun agent cmd rest p next decoded legal => ?_, fun agent c rest next => step_of_commit_not_ready ready next,
    fun noEvent => ?_⟩
  · rw [step_of_issue_not_ready ready next decoded]
    exact exec_of_not_ready (s := { s with inbox := rest, turn := agent }) ready notReset
  · exact ⟨_, (step_of_issue_not_ready ready next decoded).trans (exec_sysReset legal _), rfl, rfl, rfl, rfl, rfl, rfl, rfl⟩
  · rw [step, noEvent]
    exact drainStep_of_inFlight_nil (State.inFlight_of_not_ready ready)

/-! ### After SYS_RESET -/

/-- Gain 1.0 and offset +0.0 leave every finite sample but -0.0 (42_channel_stage.md R212). -/
theorem calibrate_reset (cap : Nat) {v : F64} (finite : v.isFinite = true) (notNegZero : v ≠ .signedZero true) :
    calibrate (Channel.reset cap).settings v = v :=
  calc calibrate (Channel.reset cap).settings v
      = F64.add (F64.mul v .one) .zero := rfl
    _ = v := by rw [F64.mul_one_of_isFinite finite, F64.add_zero_of_isFinite finite notNegZero]

/-- Step 0 of a reset channel, which has no filter and bypasses its resampler (42_channel_stage.md R214). -/
theorem stageChannel_reset (t : Tables) (cap : Nat) {raw : List F64}
    (clean : ∀ v ∈ raw, v.isFinite = true ∧ v ≠ F64.signedZero true) :
    stageChannel t 0 (Channel.reset cap) raw = (Channel.reset cap, raw) := by
  have calibrated : raw.map (fun v => F64.san (calibrate (Channel.reset cap).settings v)) = raw := by
    refine (List.map_congr_left fun v hv => ?_).trans (List.map_id raw)
    obtain ⟨finite, notNegZero⟩ := clean v hv
    rw [calibrate_reset cap finite notNegZero, F64.san, if_pos finite, id]
  calc stageChannel t 0 (Channel.reset cap) raw
      = (Channel.reset cap, raw.map (fun v => F64.san (calibrate (Channel.reset cap).settings v))) := rfl
    _ = (Channel.reset cap, raw) := by rw [calibrated]

/-- A step 0 that leaves every channel and hands its samples through. -/
theorem stageAll_eq_zip {t : Tables} {factor : Int} {chans : List Channel} {samples : List (List F64)}
    (through : ∀ ch ∈ chans, ∀ raw ∈ samples, stageChannel t factor ch raw = (ch, raw)) :
    stageAll t factor chans samples = chans.zip samples := by
  refine List.ext_getElem (by rw [stageAll, List.length_zipWith, List.length_zip]) fun c hc _ => ?_
  exact List.getElem_zipWith.trans ((through _ (List.getElem_mem _) _ (List.getElem_mem _)).trans List.getElem_zip.symm)

/-- Settles O43: step 0 on reset channels, each with its own samples. -/
theorem resetPassesSamplesThrough : Obligations.ResetPassesSamplesThrough := by
  unfold Obligations.ResetPassesSamplesThrough
  intro s p samples legal count rect clean
  obtain ⟨-, -, caps, -⟩ := legal_bounds legal
  have lengths : (p.caps.map Channel.reset).length = samples.length := by rw [List.length_map, caps, count]
  have staged : stageAll s.tables 0 (p.caps.map Channel.reset) samples = (p.caps.map Channel.reset).zip samples := by
    refine stageAll_eq_zip fun ch hch raw hraw => ?_
    obtain ⟨cap, -, rfl⟩ := List.mem_map.mp hch
    exact stageChannel_reset s.tables cap (clean raw hraw)
  have performed := execChProcessBlock_eq (s := s.construct p) rfl count rect
  rw [State.construct_tables, State.construct_factor, State.construct_chans, staged, List.map_fst_zip lengths.le,
    List.map_snd_zip lengths.ge] at performed
  refine ⟨_, (execAll_append (execAll_singleton (exec_sysReset legal s))).trans (execAll_singleton performed), rfl, ?_⟩
  have snapshot : (s.construct p).snapshot = ⟨p.caps.map fun _ => ⟨.one, .zero, 0, []⟩, 0⟩ :=
    congrArg (Snapshot.mk · 0) List.map_map
  rw [snapshot]
  rfl

end Sys2Proof.Machine
end
